-- ==== Sys2Proof/Word.lean ====
section
/-! DEFINITION. The machine's words (spec/00_scope.md R7, R9): bytes, 16-bit words, 12-bit address
immediates, and the 4-bit fields that name a register or count. Every value is unsigned. -/

namespace Sys2Proof

/-- A byte: a general register, a timer, a memory cell (R20). -/
abbrev Byte := BitVec 8

/-- A 16-bit word: PC, I, a stack slot, an opcode (R20). -/
abbrev Word := BitVec 16

/-- The 12-bit immediate NNN (R71). -/
abbrev Imm12 := BitVec 12

/-- A register index X or Y, 0 to 15 (R21, R71). -/
abbrev Reg := Fin 16

/-- A 4-bit field that names no register: N, the category C (R71). -/
abbrev Nibble := Fin 16

/-- VF is V[15] (R8, R22). -/
abbrev regVF : Reg := 15

/-- V0, the offset register of BNNN (R104). -/
abbrev regV0 : Reg := 0

end Sys2Proof
end

