-- ==== Sys2Proof/Syntax.lean ====
section
/-! DEFINITION. The instructions: one constructor per row of spec/opcode_table.json, the three catch-all
rows of unrecognised opcodes among them (spec/30_encoding.md R82, R85). Operands are the decoded fields of
R71; fields the operation ignores (N of 5XY0 and 9XY0, Y of 8XY6 and 8XYE) are kept, so that no bit of an
opcode is lost. -/

namespace Sys2Proof

inductive Instr where
  /-- 00E0 CLS (R150) -/
  | cls
  /-- 00EE RET (R100) -/
  | ret
  /-- 0NNN SYS nnn (R101) -/
  | sys (nnn : Imm12)
  /-- 1NNN JP nnn (R102) -/
  | jp (nnn : Imm12)
  /-- 2NNN CALL nnn (R103) -/
  | call (nnn : Imm12)
  /-- 3XNN SE Vx, nn (R110) -/
  | seImm (x : Reg) (nn : Byte)
  /-- 4XNN SNE Vx, nn (R111) -/
  | sneImm (x : Reg) (nn : Byte)
  /-- 5XY0 SE Vx, Vy, any low nibble (R112, R79) -/
  | seReg (x y : Reg) (n : Nibble)
  /-- 6XNN LD Vx, nn (R120) -/
  | ldImm (x : Reg) (nn : Byte)
  /-- 7XNN ADD Vx, nn (R121) -/
  | addImm (x : Reg) (nn : Byte)
  /-- 8XY0 LD Vx, Vy (R122) -/
  | ldReg (x y : Reg)
  /-- 8XY1 OR Vx, Vy (R123) -/
  | orReg (x y : Reg)
  /-- 8XY2 AND Vx, Vy (R124) -/
  | andReg (x y : Reg)
  /-- 8XY3 XOR Vx, Vy (R125) -/
  | xorReg (x y : Reg)
  /-- 8XY4 ADD Vx, Vy (R126) -/
  | addReg (x y : Reg)
  /-- 8XY5 SUB Vx, Vy (R127) -/
  | subReg (x y : Reg)
  /-- 8XY6 SHR Vx, Y encoded and ignored (R128) -/
  | shr (x y : Reg)
  /-- 8XY7 SUBN Vx, Vy (R129) -/
  | subnReg (x y : Reg)
  /-- 8XYE SHL Vx, Y encoded and ignored (R130) -/
  | shl (x y : Reg)
  /-- 9XY0 SNE Vx, Vy, any low nibble (R113, R79) -/
  | sneReg (x y : Reg) (n : Nibble)
  /-- ANNN LD I, nnn (R140) -/
  | ldI (nnn : Imm12)
  /-- BNNN JP V0, nnn (R104) -/
  | jpV0 (nnn : Imm12)
  /-- CXNN RND Vx, nn (R131) -/
  | rnd (x : Reg) (nn : Byte)
  /-- DXYN DRW Vx, Vy, n (R151) -/
  | drw (x y : Reg) (n : Nibble)
  /-- EX9E SKP Vx (R160) -/
  | skp (x : Reg)
  /-- EXA1 SKNP Vx (R161) -/
  | sknp (x : Reg)
  /-- FX07 LD Vx, DT (R163) -/
  | ldVxDt (x : Reg)
  /-- FX0A LD Vx, K (R162) -/
  | ldVxK (x : Reg)
  /-- FX15 LD DT, Vx (R164) -/
  | ldDtVx (x : Reg)
  /-- FX18 LD ST, Vx (R165) -/
  | ldStVx (x : Reg)
  /-- FX1E ADD I, Vx (R141) -/
  | addI (x : Reg)
  /-- FX29 LD F, Vx (R142) -/
  | ldF (x : Reg)
  /-- FX33 LD B, Vx (R143) -/
  | ldB (x : Reg)
  /-- FX55 LD [I], Vx (R144) -/
  | storeRegs (x : Reg)
  /-- FX65 LD Vx, [I] (R145) -/
  | loadRegs (x : Reg)
  /-- 8XY8 to 8XYD and 8XYF: unrecognised (R76, R80, R95) -/
  | unrecognised8 (x y : Reg) (n : Nibble)
  /-- EXNN but EX9E and EXA1: unrecognised (R77, R80, R95) -/
  | unrecognisedE (x : Reg) (nn : Byte)
  /-- FXNN but the nine FX rows: unrecognised (R78, R80, R95) -/
  | unrecognisedF (x : Reg) (nn : Byte)
  deriving DecidableEq, Repr

end Sys2Proof
end

