-- ==== Sys2Proof/WellFormed.lean ====
section
/-! DEFINITION. Which terms of Instr stand for an opcode: a general row's operand may not take a value that a
more specific row owns (spec/30_encoding.md R75 to R78, R85 "most-specific sub-case wins"). -/

namespace Sys2Proof

/-- The sub-cases of category 0x8 that are instructions (R76). -/
def selects8 (n : Nibble) : Bool := n.val ≤ 7 || n.val == 0xE

/-- The sub-cases of category 0xE that are instructions (R77). -/
def selectsE (nn : Byte) : Bool := nn == 0x9E || nn == 0xA1

/-- The sub-cases of category 0xF that are instructions (R78). -/
def selectsF (nn : Byte) : Bool :=
  nn == 0x07 || nn == 0x0A || nn == 0x15 || nn == 0x18 || nn == 0x1E || nn == 0x29 || nn == 0x33 ||
    nn == 0x55 || nn == 0x65

/-- An instruction that some opcode encodes. -/
def Instr.wf : Instr → Bool
  | .cls => true
  | .ret => true
  | .sys nnn => nnn != 0x0E0 && nnn != 0x0EE
  | .jp _ => true
  | .call _ => true
  | .seImm _ _ => true
  | .sneImm _ _ => true
  | .seReg _ _ _ => true
  | .ldImm _ _ => true
  | .addImm _ _ => true
  | .ldReg _ _ => true
  | .orReg _ _ => true
  | .andReg _ _ => true
  | .xorReg _ _ => true
  | .addReg _ _ => true
  | .subReg _ _ => true
  | .shr _ _ => true
  | .subnReg _ _ => true
  | .shl _ _ => true
  | .sneReg _ _ _ => true
  | .ldI _ => true
  | .jpV0 _ => true
  | .rnd _ _ => true
  | .drw _ _ _ => true
  | .skp _ => true
  | .sknp _ => true
  | .ldVxDt _ => true
  | .ldVxK _ => true
  | .ldDtVx _ => true
  | .ldStVx _ => true
  | .addI _ => true
  | .ldF _ => true
  | .ldB _ => true
  | .storeRegs _ => true
  | .loadRegs _ => true
  | .unrecognised8 _ _ n => !selects8 n
  | .unrecognisedE _ nn => !selectsE nn
  | .unrecognisedF _ nn => !selectsF nn

end Sys2Proof
end

