-- ==== Sys2Proof/Decode.lean ====
section
/-! DEFINITION. Decoding an opcode (spec/30_encoding.md R70 to R81), the encoder beside it, the opcode
table's own columns (R82, R85), and the host's view of the decoder. Decoding is total: every one of the
65536 opcodes is an instruction or an unrecognised opcode; only a byte sequence shorter than an instruction
is rejected. -/

namespace Sys2Proof

/-! ## Fields (R71) -/

/-- `C`, opcode[15:12]. -/
def fieldC (w : Word) : Nibble := (w.extractLsb' 12 4).toFin

/-- `X`, opcode[11:8]. -/
def fieldX (w : Word) : Reg := (w.extractLsb' 8 4).toFin

/-- `Y`, opcode[7:4]. -/
def fieldY (w : Word) : Reg := (w.extractLsb' 4 4).toFin

/-- `N`, opcode[3:0]. -/
def fieldN (w : Word) : Nibble := (w.extractLsb' 0 4).toFin

/-- `NN`, opcode[7:0]. -/
def fieldNN (w : Word) : Byte := w.extractLsb' 0 8

/-- `NNN`, opcode[11:0]. -/
def fieldNNN (w : Word) : Imm12 := w.extractLsb' 0 12

/-! ## Dispatch (R74 to R80) -/

/-- Category 0x0 sub-selects on NNN (R75). -/
def decode0 (w : Word) : Instr :=
  if fieldNNN w = 0x0E0 then .cls
  else if fieldNNN w = 0x0EE then .ret
  else .sys (fieldNNN w)

/-- Category 0x8 sub-selects on N (R76). -/
def decode8 (w : Word) : Instr :=
  match (fieldN w).val with
  | 0x0 => .ldReg (fieldX w) (fieldY w)
  | 0x1 => .orReg (fieldX w) (fieldY w)
  | 0x2 => .andReg (fieldX w) (fieldY w)
  | 0x3 => .xorReg (fieldX w) (fieldY w)
  | 0x4 => .addReg (fieldX w) (fieldY w)
  | 0x5 => .subReg (fieldX w) (fieldY w)
  | 0x6 => .shr (fieldX w) (fieldY w)
  | 0x7 => .subnReg (fieldX w) (fieldY w)
  | 0xE => .shl (fieldX w) (fieldY w)
  | _ => .unrecognised8 (fieldX w) (fieldY w) (fieldN w)

/-- Category 0xE sub-selects on NN (R77). -/
def decodeE (w : Word) : Instr :=
  match (fieldNN w).toNat with
  | 0x9E => .skp (fieldX w)
  | 0xA1 => .sknp (fieldX w)
  | _ => .unrecognisedE (fieldX w) (fieldNN w)

/-- Category 0xF sub-selects on NN (R78). -/
def decodeF (w : Word) : Instr :=
  match (fieldNN w).toNat with
  | 0x07 => .ldVxDt (fieldX w)
  | 0x0A => .ldVxK (fieldX w)
  | 0x15 => .ldDtVx (fieldX w)
  | 0x18 => .ldStVx (fieldX w)
  | 0x1E => .addI (fieldX w)
  | 0x29 => .ldF (fieldX w)
  | 0x33 => .ldB (fieldX w)
  | 0x55 => .storeRegs (fieldX w)
  | 0x65 => .loadRegs (fieldX w)
  | _ => .unrecognisedF (fieldX w) (fieldNN w)

/-- The instruction of an opcode: first level on the category (R74); categories 0x5 and 0x9 do not look at
the low nibble (R79). The last arm is category 0xF, the only value left. -/
def decodeWord (w : Word) : Instr :=
  match (fieldC w).val with
  | 0x0 => decode0 w
  | 0x1 => .jp (fieldNNN w)
  | 0x2 => .call (fieldNNN w)
  | 0x3 => .seImm (fieldX w) (fieldNN w)
  | 0x4 => .sneImm (fieldX w) (fieldNN w)
  | 0x5 => .seReg (fieldX w) (fieldY w) (fieldN w)
  | 0x6 => .ldImm (fieldX w) (fieldNN w)
  | 0x7 => .addImm (fieldX w) (fieldNN w)
  | 0x8 => decode8 w
  | 0x9 => .sneReg (fieldX w) (fieldY w) (fieldN w)
  | 0xA => .ldI (fieldNNN w)
  | 0xB => .jpV0 (fieldNNN w)
  | 0xC => .rnd (fieldX w) (fieldNN w)
  | 0xD => .drw (fieldX w) (fieldY w) (fieldN w)
  | 0xE => decodeE w
  | _ => decodeF w

/-! ## Bytes (R53, R70) -/

/-- The opcode of two bytes: the byte at the lower address is the high byte (R53). -/
def wordOfBytes (hi lo : Byte) : Word := BitVec.ofNat 16 (hi.toNat * 256 + lo.toNat)

/-- The byte stored at the lower address. -/
def highByte (w : Word) : Byte := w.extractLsb' 8 8

/-- The byte stored at the higher address. -/
def lowByte (w : Word) : Byte := w.extractLsb' 0 8

/-- Why a byte sequence is no instruction. -/
inductive DecodeError where
  /-- Fewer than two bytes: an instruction is always two (R70). -/
  | truncated
  deriving DecidableEq, Repr

/-- The first instruction of a byte sequence and the bytes after it. -/
def decode : List Byte → Except DecodeError (Instr × List Byte)
  | hi :: lo :: rest => .ok (decodeWord (wordOfBytes hi lo), rest)
  | _ => .error .truncated

/-! ## The encoder (R72) -/

/-- Formats XYN, XKK and FIXED: four nibbles, the category first. -/
def encodeXYN (c : Nibble) (x y : Reg) (n : Nibble) : Word :=
  BitVec.ofNat 16 (c.val * 4096 + x.val * 256 + y.val * 16 + n.val)

/-- Format XNN (and XKK with a fixed low byte). -/
def encodeXNN (c : Nibble) (x : Reg) (nn : Byte) : Word :=
  BitVec.ofNat 16 (c.val * 4096 + x.val * 256 + nn.toNat)

/-- Format NNN. -/
def encodeNNN (c : Nibble) (nnn : Imm12) : Word :=
  BitVec.ofNat 16 (c.val * 4096 + nnn.toNat)

/-- The opcode of an instruction, from the bit layouts of R72 and the match column of R82. -/
def encodeWord : Instr → Word
  | .cls => encodeNNN 0x0 0x0E0
  | .ret => encodeNNN 0x0 0x0EE
  | .sys nnn => encodeNNN 0x0 nnn
  | .jp nnn => encodeNNN 0x1 nnn
  | .call nnn => encodeNNN 0x2 nnn
  | .seImm x nn => encodeXNN 0x3 x nn
  | .sneImm x nn => encodeXNN 0x4 x nn
  | .seReg x y n => encodeXYN 0x5 x y n
  | .ldImm x nn => encodeXNN 0x6 x nn
  | .addImm x nn => encodeXNN 0x7 x nn
  | .ldReg x y => encodeXYN 0x8 x y 0x0
  | .orReg x y => encodeXYN 0x8 x y 0x1
  | .andReg x y => encodeXYN 0x8 x y 0x2
  | .xorReg x y => encodeXYN 0x8 x y 0x3
  | .addReg x y => encodeXYN 0x8 x y 0x4
  | .subReg x y => encodeXYN 0x8 x y 0x5
  | .shr x y => encodeXYN 0x8 x y 0x6
  | .subnReg x y => encodeXYN 0x8 x y 0x7
  | .shl x y => encodeXYN 0x8 x y 0xE
  | .sneReg x y n => encodeXYN 0x9 x y n
  | .ldI nnn => encodeNNN 0xA nnn
  | .jpV0 nnn => encodeNNN 0xB nnn
  | .rnd x nn => encodeXNN 0xC x nn
  | .drw x y n => encodeXYN 0xD x y n
  | .skp x => encodeXNN 0xE x 0x9E
  | .sknp x => encodeXNN 0xE x 0xA1
  | .ldVxDt x => encodeXNN 0xF x 0x07
  | .ldVxK x => encodeXNN 0xF x 0x0A
  | .ldDtVx x => encodeXNN 0xF x 0x15
  | .ldStVx x => encodeXNN 0xF x 0x18
  | .addI x => encodeXNN 0xF x 0x1E
  | .ldF x => encodeXNN 0xF x 0x29
  | .ldB x => encodeXNN 0xF x 0x33
  | .storeRegs x => encodeXNN 0xF x 0x55
  | .loadRegs x => encodeXNN 0xF x 0x65
  | .unrecognised8 x y n => encodeXYN 0x8 x y n
  | .unrecognisedE x nn => encodeXNN 0xE x nn
  | .unrecognisedF x nn => encodeXNN 0xF x nn

/-- An instruction as it lies in memory: high byte first (R53, R70). -/
def encode (i : Instr) : List Byte := [highByte (encodeWord i), lowByte (encodeWord i)]

/-! ## The opcode table (R82, R85) -/

/-- One row of the opcode map: an opcode `w` selects it when `w &&& mask = pattern`. -/
structure TableRow where
  mask : Word
  pattern : Word
  build : Word → Instr

/-- The row selects the opcode (R82). -/
def TableRow.selects (r : TableRow) (w : Word) : Bool := w &&& r.mask == r.pattern

/-- Rows 1 to 10 of R82, in the table's order. -/
def tableRows1 : List TableRow :=
  [⟨0xFFFF, 0x00E0, fun _ => .cls⟩,
   ⟨0xFFFF, 0x00EE, fun _ => .ret⟩,
   ⟨0xF000, 0x0000, fun w => .sys (fieldNNN w)⟩,
   ⟨0xF000, 0x1000, fun w => .jp (fieldNNN w)⟩,
   ⟨0xF000, 0x2000, fun w => .call (fieldNNN w)⟩,
   ⟨0xF000, 0x3000, fun w => .seImm (fieldX w) (fieldNN w)⟩,
   ⟨0xF000, 0x4000, fun w => .sneImm (fieldX w) (fieldNN w)⟩,
   ⟨0xF000, 0x5000, fun w => .seReg (fieldX w) (fieldY w) (fieldN w)⟩,
   ⟨0xF000, 0x6000, fun w => .ldImm (fieldX w) (fieldNN w)⟩,
   ⟨0xF000, 0x7000, fun w => .addImm (fieldX w) (fieldNN w)⟩]

/-- Rows 11 to 24 of R82. -/
def tableRows2 : List TableRow :=
  [⟨0xF00F, 0x8000, fun w => .ldReg (fieldX w) (fieldY w)⟩,
   ⟨0xF00F, 0x8001, fun w => .orReg (fieldX w) (fieldY w)⟩,
   ⟨0xF00F, 0x8002, fun w => .andReg (fieldX w) (fieldY w)⟩,
   ⟨0xF00F, 0x8003, fun w => .xorReg (fieldX w) (fieldY w)⟩,
   ⟨0xF00F, 0x8004, fun w => .addReg (fieldX w) (fieldY w)⟩,
   ⟨0xF00F, 0x8005, fun w => .subReg (fieldX w) (fieldY w)⟩,
   ⟨0xF00F, 0x8006, fun w => .shr (fieldX w) (fieldY w)⟩,
   ⟨0xF00F, 0x8007, fun w => .subnReg (fieldX w) (fieldY w)⟩,
   ⟨0xF00F, 0x800E, fun w => .shl (fieldX w) (fieldY w)⟩,
   ⟨0xF000, 0x9000, fun w => .sneReg (fieldX w) (fieldY w) (fieldN w)⟩,
   ⟨0xF000, 0xA000, fun w => .ldI (fieldNNN w)⟩,
   ⟨0xF000, 0xB000, fun w => .jpV0 (fieldNNN w)⟩,
   ⟨0xF000, 0xC000, fun w => .rnd (fieldX w) (fieldNN w)⟩,
   ⟨0xF000, 0xD000, fun w => .drw (fieldX w) (fieldY w) (fieldN w)⟩]

/-- Rows 25 to 35 of R82, then the three catch-all rows. -/
def tableRows3 : List TableRow :=
  [⟨0xF0FF, 0xE09E, fun w => .skp (fieldX w)⟩,
   ⟨0xF0FF, 0xE0A1, fun w => .sknp (fieldX w)⟩,
   ⟨0xF0FF, 0xF007, fun w => .ldVxDt (fieldX w)⟩,
   ⟨0xF0FF, 0xF00A, fun w => .ldVxK (fieldX w)⟩,
   ⟨0xF0FF, 0xF015, fun w => .ldDtVx (fieldX w)⟩,
   ⟨0xF0FF, 0xF018, fun w => .ldStVx (fieldX w)⟩,
   ⟨0xF0FF, 0xF01E, fun w => .addI (fieldX w)⟩,
   ⟨0xF0FF, 0xF029, fun w => .ldF (fieldX w)⟩,
   ⟨0xF0FF, 0xF033, fun w => .ldB (fieldX w)⟩,
   ⟨0xF0FF, 0xF055, fun w => .storeRegs (fieldX w)⟩,
   ⟨0xF0FF, 0xF065, fun w => .loadRegs (fieldX w)⟩,
   ⟨0xF000, 0x8000, fun w => .unrecognised8 (fieldX w) (fieldY w) (fieldN w)⟩,
   ⟨0xF000, 0xE000, fun w => .unrecognisedE (fieldX w) (fieldNN w)⟩,
   ⟨0xF000, 0xF000, fun w => .unrecognisedF (fieldX w) (fieldNN w)⟩]

/-- The opcode table in its order of precedence (R85). -/
def tableRows : List TableRow := tableRows1 ++ tableRows2 ++ tableRows3

/-- Decoding by the table: the first row that selects the opcode wins (R85). -/
def decodeByTable (w : Word) : Option Instr :=
  (tableRows.find? fun r => r.selects w).map fun r => r.build w

/-- The place of an instruction's row in `tableRows`, counted from 0 (the table's priority less 1). -/
def Instr.rowIndex : Instr → Nat
  | .cls => 0
  | .ret => 1
  | .sys _ => 2
  | .jp _ => 3
  | .call _ => 4
  | .seImm _ _ => 5
  | .sneImm _ _ => 6
  | .seReg _ _ _ => 7
  | .ldImm _ _ => 8
  | .addImm _ _ => 9
  | .ldReg _ _ => 10
  | .orReg _ _ => 11
  | .andReg _ _ => 12
  | .xorReg _ _ => 13
  | .addReg _ _ => 14
  | .subReg _ _ => 15
  | .shr _ _ => 16
  | .subnReg _ _ => 17
  | .shl _ _ => 18
  | .sneReg _ _ _ => 19
  | .ldI _ => 20
  | .jpV0 _ => 21
  | .rnd _ _ => 22
  | .drw _ _ _ => 23
  | .skp _ => 24
  | .sknp _ => 25
  | .ldVxDt _ => 26
  | .ldVxK _ => 27
  | .ldDtVx _ => 28
  | .ldStVx _ => 29
  | .addI _ => 30
  | .ldF _ => 31
  | .ldB _ => 32
  | .storeRegs _ => 33
  | .loadRegs _ => 34
  | .unrecognised8 _ _ _ => 35
  | .unrecognisedE _ _ => 36
  | .unrecognisedF _ _ => 37

/-! ## The host's view -/

/-- The opcode in the host's numbering: bit 0 is the least significant bit of the one 16-bit word, and the
bits above `nbits` are 0. -/
def tableWord (nbits w : Nat) : Word := BitVec.ofNat 16 (w % 2 ^ nbits)

/-- The instruction the decoder reads from the opcode-table word `w` of `nbits` bits: the word laid out high
byte first, given to `decode`. No instruction is longer than 16 bits (R70). -/
def decodeTableWord (nbits w : Nat) : Option Instr :=
  if nbits ≤ 16 then
    match decode [highByte (tableWord nbits w), lowByte (tableWord nbits w)] with
    | .ok (i, _) => some i
    | .error _ => none
  else none

end Sys2Proof
end

