-- ==== Sys2Proof/Config.lean ====
section
/-! DEFINITION. What is fixed for a session and what the spec leaves open (spec/00_scope.md R5, R6):
sizes, the configuration port, the default font, the free random byte. -/

namespace Sys2Proof

/-- The configuration that stays constant for a session and that instructions or ticks consult
(spec/10_state.md R33 "configuration", R6). FONT and ROM are consumed by reset and are then memory. -/
structure SessionConfig where
  /-- `IPT`: instructions executed per tick (R6, R187). `0` is allowed (D18). -/
  ipt : Nat
  /-- `FX0A_STORES_INDEX`: what FX0A writes (R6, R162). -/
  fx0aStoresIndex : Bool
  deriving DecidableEq, Repr

/-- `FONT`: the 80 bytes placed at 0x000 to 0x04F by reset (R6, R52). -/
abbrev Font := Vector Byte 80

/-- What the ROM loader hands to `reset` (R33, R203): bytes, or the verdict "unreadable". -/
inductive Rom where
  | bytes (image : List Byte)
  | unreadable
  deriving DecidableEq, Repr

namespace Config

/-- Memory holds 4096 bytes (R5, R50). -/
abbrev memSize : Nat := 4096

/-- The last address whose two bytes can be fetched (R91). -/
abbrev lastFetch : Nat := 0xFFE

/-- The font's length in bytes (R5). -/
abbrev fontSize : Nat := 80

/-- The program image is copied here, and the first instruction is fetched here (R5, R200). -/
abbrev programBase : Nat := 0x200

/-- The longest ROM (R5). -/
abbrev maxRomLength : Nat := 3584

/-- The stack's 12 slots (R5, R25). -/
abbrev stackSlots : Nat := 12

/-- The default glyphs 0 to 7 of R52. PRESUMED: the spec takes them from general knowledge (log 4). -/
def fontLow : List Byte :=
  [0xF0, 0x90, 0x90, 0x90, 0xF0] ++ [0x20, 0x60, 0x20, 0x20, 0x70] ++
  [0xF0, 0x10, 0xF0, 0x80, 0xF0] ++ [0xF0, 0x10, 0xF0, 0x10, 0xF0] ++
  [0x90, 0x90, 0xF0, 0x10, 0x10] ++ [0xF0, 0x80, 0xF0, 0x10, 0xF0] ++
  [0xF0, 0x80, 0xF0, 0x90, 0xF0] ++ [0xF0, 0x10, 0x20, 0x40, 0x40]

/-- The default glyphs 8 to F of R52. PRESUMED: the spec takes them from general knowledge (log 4). -/
def fontHigh : List Byte :=
  [0xF0, 0x90, 0xF0, 0x90, 0xF0] ++ [0xF0, 0x90, 0xF0, 0x10, 0xF0] ++
  [0xF0, 0x90, 0xF0, 0x90, 0x90] ++ [0xE0, 0x90, 0xE0, 0x90, 0xE0] ++
  [0xF0, 0x80, 0x80, 0x80, 0xF0] ++ [0xE0, 0x90, 0x90, 0x90, 0xE0] ++
  [0xF0, 0x80, 0xF0, 0x80, 0xF0] ++ [0xF0, 0x80, 0xF0, 0x80, 0x80]

/-- The default value of `FONT` (R6, R52). -/
def defaultFont : Font := ⟨(fontLow ++ fontHigh).toArray, by decide⟩

/-- `IPT = floor(CLOCK_RATE / 60)` (R6, R187). A rate of 0 is outside the source's "positive" and is
refused (spec/93 U6). -/
def iptOfClockRate (clockRate : Nat) : Option Nat :=
  if clockRate = 0 then none else some (clockRate / 60)

/-- The free input `rnd`: the byte handed to the n-th executed CXNN (R6, R131, D15). It has no body, so
whatever is proved holds for every sequence of random bytes (log 9). -/
opaque randomByte : Nat → Byte

end Config

end Sys2Proof
end

