-- ==== Sys2Proof/Machine/State.lean ====
section
/-! DEFINITION. The whole state of the CORE (spec/10_state.md R20), the model's own fields for the tick
sequence and the host's ports (R33), the reasons a step can stop, and the state after reset (R34). -/

namespace Sys2Proof.Machine

/-- `run_state` (R29). -/
inductive RunState where
  | running
  | stopped
  | quit
  deriving DecidableEq, Repr

/-- `fault_cause` (R30, R170). -/
inductive FaultCause where
  | none
  | stackUnderflow
  | stackOverflow
  | pcOutOfRange
  | memOutOfRange
  | keyIndexOutOfRange
  | romLoadFailed
  deriving DecidableEq, Repr

/-- Memory: bytes by address, in canonical form (`Memory.wf`): addresses strictly rising, all below 0x1000,
no entry equal to what an unlisted address reads as (`Memory.background`). -/
abbrev Memory := List Host.Cell

/-- The display grid: 32 rows of 64 cells (R27). -/
abbrev Display := Vector (Vector Bool 64) 32

/-- What the host does in step (a) of one tick (R33, R186): `setKey` any number of times, in order, then
`setRunState` at most once. The types hold the host to its contract (R186, D28). -/
structure TickInput where
  keyEvents : List (Fin 16 × Bool)
  runRequest : Option RunState
  deriving DecidableEq, Repr

/-- Where the machine stands in the tick sequence (R185): between two ticks, or inside a tick with `left`
steps of its batch still to run (`0`: steps (d) to (f) come next). The model's own field (log 6). -/
inductive Phase where
  | boundary
  | batch (left : Nat)
  deriving DecidableEq, Repr

/-- A delivery of the host on the ports `tick` and `reset` (R33). A reset may come at any time (R212): `place`
is the place in the tick sequence at which it comes (log 21). -/
inductive HostEvent where
  | tick (input : TickInput)
  | reset (place : Phase) (config : SessionConfig) (font : Font) (rom : Rom)
  deriving DecidableEq, Repr

/-- What the CORE hands to the host in one move (R33): `diag_out` (R182), `fault_out` (R177), `display_out`
(R189). -/
inductive Event where
  | none
  | diag (opcode : Word) (pc : Word)
  | fault (cause : FaultCause) (pc : Word)
  | display (cells : Display)
  deriving DecidableEq, Repr

/-- The state. Fields `mem` to `faultPc` are the table of R20; `config` is the configuration port of R33; the
last four are the model's own (logs 6, 7, 9, 10). -/
structure State where
  /-- `mem` (R32) -/
  mem : Memory
  /-- `V[0..15]` (R21), VF being `V[15]` (R22) -/
  v : Vector Byte 16
  /-- `I` (R23) -/
  i : Word
  /-- `PC` (R24) -/
  pc : Word
  /-- `stack[0..11]` (R25) -/
  stack : Vector Word 12
  /-- `SP`, 0 to 12, the next free slot (R25) -/
  sp : Fin 13
  /-- `DT` (R26) -/
  dt : Byte
  /-- `ST` (R26) -/
  st : Byte
  /-- `disp[0..31][0..63]` (R27) -/
  disp : Display
  /-- `key[0..15]`, true = down (R28) -/
  keys : Vector Bool 16
  /-- `run_state` (R29) -/
  runState : RunState
  /-- `fault_cause` (R30) -/
  faultCause : FaultCause
  /-- `fault_pc` (R30) -/
  faultPc : Word
  /-- `IPT` and `FX0A_STORES_INDEX`, constant for a session (R6, R33) -/
  config : SessionConfig
  /-- where the machine stands in the tick sequence (R185) -/
  phase : Phase
  /-- the host's deliveries still to come, first first (R33) -/
  inbox : List HostEvent
  /-- how many values of the free input `rnd` have been drawn (R131) -/
  rndDraws : Nat
  /-- the output event of the move just made (R33, R90) -/
  event : Event
  deriving DecidableEq, Repr

/-- The reasons `step` can stop. The spec's own faults (R170) are not among them: they are next states
(R177). -/
inductive Fault where
  /-- Raised by `step` when the session is over (QUIT, or a fault is recorded) and the host has delivered
  nothing more: no step and no tick phase is defined (R90, R193, U17). Safe: the machine does nothing there. -/
  | sessionEnded
  /-- Raised by `step` inside a batch when `run_state` is not RUNNING: a step is defined only in RUNNING
  (R90). Safe; no run reaches such a state (log 11). -/
  | stepUndefined
  deriving DecidableEq, Repr

/-- The reasons for having no meaning. -/
inductive Refusal where
  /-- Raised by `exec` for an instruction that has no meaning yet. Safe; no arm raises it. -/
  | notModelled (mnemonic : String)
  deriving DecidableEq, Repr

/-- The outcome of an instruction or a step. -/
abbrev Outcome := Host.Outcome State Fault Refusal

/-- The machine right after a successful reset (R34), with the default font and a program image of zeros
(no entry of `mem` differs from what it reads as). `config` is DESIGN CHOICE `IPT = 1` (log 2) and the spec's
default `FX0A_STORES_INDEX = false` (log 3); the model's own fields are DESIGN CHOICEs (logs 6, 7, 9, 10).
`State.resetWith` is the reset of every configuration, font and ROM. -/
def State.reset : State where
  mem := []
  v := Vector.replicate 16 0
  i := 0
  pc := 0x0200
  stack := Vector.replicate 12 0
  sp := 0
  dt := 0
  st := 0
  disp := Vector.replicate 32 (Vector.replicate 64 false)
  keys := Vector.replicate 16 false
  runState := .running
  faultCause := .none
  faultPc := 0
  config := { ipt := 1, fx0aStoresIndex := false }
  phase := .boundary
  inbox := []
  rndDraws := 0
  event := .none

end Sys2Proof.Machine
end

