-- ==== Sys2Proof/Machine/Ops.lean ====
section
/-! DEFINITION. The named operations every meaning is written over: memory (spec/20_memory.md), registers,
stack, display cells and keys (spec/10_state.md), fault entry (spec/60_exceptions.md R177), reset
(spec/70_reset_and_hazards.md R200), fetch (spec/40_dispatch_cycle.md R91, R92). -/

namespace Sys2Proof.Machine

/-! ## Codes (R29, R30) -/

/-- The binary encoding of `run_state` (R29, D24). -/
def RunState.code : RunState → BitVec 2
  | .running => 0
  | .stopped => 1
  | .quit => 2

/-- The code of a fault cause (R170). -/
def FaultCause.code : FaultCause → BitVec 3
  | .none => 0
  | .stackUnderflow => 1
  | .stackOverflow => 2
  | .pcOutOfRange => 3
  | .memOutOfRange => 4
  | .keyIndexOutOfRange => 5
  | .romLoadFailed => 6

/-! ## Memory (R50 to R61) -/

/-- What an address that memory does not list reads as: the reset contents with the default font (R34, R52),
0x00 elsewhere (R51, D16; log 4). -/
def Memory.background (a : Nat) : Byte := Config.defaultFont.toList.getD a 0

/-- One byte of memory (R57). -/
def Memory.read : Memory → Nat → Byte
  | [], a => Memory.background a
  | (k, b) :: rest, a => if k = a then b else Memory.read rest a

/-- The cell of one address, none where the byte is the background's. -/
def Memory.cellOf (a : Nat) (b : Byte) : Memory :=
  if b = Memory.background a then [] else [(a, b)]

/-- Put a byte at its place in the rising list. -/
def Memory.put : Memory → Nat → Byte → Memory
  | [], a, b => Memory.cellOf a b
  | (k, c) :: rest, a, b =>
    if a < k then Memory.cellOf a b ++ (k, c) :: rest
    else if a = k then Memory.cellOf a b ++ rest
    else (k, c) :: Memory.put rest a b

/-- Store one byte. No meaning stores above 0xFFF (R56); there the operation changes nothing (log 24). -/
def Memory.write (m : Memory) (a : Nat) (b : Byte) : Memory :=
  if a < Config.memSize then m.put a b else m

/-- Store bytes at ascending addresses (R59). -/
def Memory.writeBytes : Memory → Nat → List Byte → Memory
  | m, _, [] => m
  | m, a, b :: rest => Memory.writeBytes (m.write a b) (a + 1) rest

/-- The canonical form from address `lo` on. -/
def Memory.wfFrom (lo : Nat) : Memory → Bool
  | [] => true
  | (k, b) :: rest =>
    decide (lo ≤ k) && decide (k < Config.memSize) && decide (b ≠ Memory.background k) &&
      Memory.wfFrom (k + 1) rest

/-- The canonical form of memory. -/
def Memory.wf (m : Memory) : Bool := Memory.wfFrom 0 m

/-! ## Registers (R21 to R25) -/

/-- `V[r]` (R10). -/
def State.getV (s : State) (r : Reg) : Byte := s.v[r.val]

/-- `V[r] <- b` (R10). -/
def State.setV (s : State) (r : Reg) (b : Byte) : State := { s with v := s.v.set r.val b }

/-- `PC <- a`. -/
def State.setPc (s : State) (a : Word) : State := { s with pc := a }

/-- `I <- a`. -/
def State.setI (s : State) (a : Word) : State := { s with i := a }

/-- `stack[SP] <- a; SP <- SP + 1`, for a stack that is not full (R25). -/
def State.push (s : State) (a : Word) (_h : s.sp.val < 12) : State :=
  { s with stack := s.stack.set s.sp.val a, sp := ⟨s.sp.val + 1, by omega⟩ }

/-- `SP <- SP - 1; PC <- stack[SP]`, for a stack that is not empty (R25). -/
def State.popPc (s : State) (_h : s.sp.val ≠ 0) : State :=
  { s with sp := ⟨s.sp.val - 1, by omega⟩, pc := s.stack[s.sp.val - 1]'(by omega) }

/-! ## Display and keypad (R27, R28) -/

/-- `disp[r][c]`. -/
def State.pixel (s : State) (r : Fin 32) (c : Fin 64) : Bool := s.disp[r.val][c.val]

/-- `disp[r][c] <- b`. -/
def State.setPixel (s : State) (r : Fin 32) (c : Fin 64) (b : Bool) : State :=
  { s with disp := s.disp.set r.val (s.disp[r.val].set c.val b) }

/-- The grid with every cell false. -/
def Display.blank : Display := Vector.replicate 32 (Vector.replicate 64 false)

/-- The 2048 cells in row-major order, as `display_out` presents them (R189). -/
def Display.flat (d : Display) : List Bool := d.toList.flatMap Vector.toList

/-- `key[k]`. -/
def State.key (s : State) (k : Fin 16) : Bool := s.keys[k.val]

/-- `key[k] <- pressed` (R186). -/
def State.setKey (s : State) (k : Fin 16) (pressed : Bool) : State :=
  { s with keys := s.keys.set k.val pressed }

/-! ## Events and faults (R33, R177, R182) -/

/-- Hand an event to the host. -/
def State.emit (s : State) (e : Event) : State := { s with event := e }

/-- Fault entry, `raise Fault(cause)` (R177): the one way the machine takes a fault. There is no return from
it but `reset` (R180). -/
def State.raise (s : State) (cause : FaultCause) : State :=
  { s with faultCause := cause, faultPc := s.pc, runState := .quit, event := .fault cause s.pc }

/-- An operation with one fault condition (R12, R94, R179): where `ok` fails the fault is raised on the state
before the body, otherwise the body completes. -/
def orRaise (ok : Bool) (cause : FaultCause) (s body : State) : Outcome :=
  .next (if ok then body else s.raise cause)

/-- The session is over (R30, R90, R193): no step and no tick phase is defined. -/
def State.ended (s : State) : Bool := s.runState == .quit || s.faultCause != .none

/-! ## Reset (R200 to R203, R212) -/

/-- Every element at its reset value, the font in place, no program (R200); the host's later deliveries
stand in `inbox`. -/
def State.resetBase (config : SessionConfig) (font : Font) (inbox : List HostEvent) : State :=
  { State.reset with
    config := config
    inbox := inbox
    mem := Memory.writeBytes [] 0 font.toList }

/-- The ROM loads (R200, R203). -/
def Rom.loads : Rom → Bool
  | .bytes image => image.length != 0 && decide (image.length ≤ Config.maxRomLength)
  | .unreadable => false

/-- The bytes a ROM supplies. -/
def Rom.image : Rom → List Byte
  | .bytes image => image
  | .unreadable => []

/-- `Reset(ROM, L)` (R200): a new session, whatever went before (R212). -/
def State.resetWith (config : SessionConfig) (font : Font) (rom : Rom) (inbox : List HostEvent) :
    State :=
  let s := State.resetBase config font inbox
  if Rom.loads rom then { s with mem := s.mem.writeBytes Config.programBase (Rom.image rom) }
  else s.raise .romLoadFailed

/-- A reset delivered to a machine (R212): the state is that of the reset. The free input `rnd` is not the
CORE's (R33, R36): its draws go on (log 9). -/
def State.restart (s : State) (config : SessionConfig) (font : Font) (rom : Rom)
    (inbox : List HostEvent) : State :=
  { State.resetWith config font rom inbox with rndDraws := s.rndDraws }

/-! ## Fetch (R91, R92) -/

/-- `FetchWord(PC)` (R10, R53). -/
def State.fetchWord (s : State) : Word :=
  wordOfBytes (s.mem.read s.pc.toNat) (s.mem.read (s.pc.toNat + 1))

/-- Both bytes at PC lie in memory (R91). -/
def State.canFetch (s : State) : Bool := decide (s.pc.toNat ≤ Config.lastFetch)

end Sys2Proof.Machine
end

