-- ==== Sys2Proof/Machine/Operands.lean ====
section
/-! DEFINITION. Operand forms: immediates and register values widened with zeros (spec/00_scope.md R9,
spec/30_encoding.md R73), the one addressing mode "I plus an offset" and its bounds check
(spec/20_memory.md R54, R56), register blocks, decimal digits, the skip (spec/42_skips.md R114), key
operands (spec/46_keypad_timers.md). -/

namespace Sys2Proof.Machine

/-- `zext_16(NNN)` (R73). -/
def addrOfImm (nnn : Imm12) : Word := nnn.setWidth 16

/-- `zext_16(V[r])` (R9). -/
def State.wideV (s : State) (r : Reg) : Word := (s.getV r).setWidth 16

/-- The effective address of byte `k` of a transfer, `I + k` on unbounded integers (R56). -/
def State.dataAddr (s : State) (k : Nat) : Nat := s.i.toNat + k

/-- The `n` bytes at I to I + n - 1 lie in memory; a transfer of no byte has no address (R54, R56). -/
def State.rangeOk (s : State) (n : Nat) : Bool := n == 0 || decide (s.i.toNat + n - 1 ≤ 0xFFF)

/-- The registers V[0] to V[x], the block FX55 stores (R21, R144). -/
def State.regBlock (s : State) (x : Reg) : List Byte := s.v.toList.take (x.val + 1)

/-- The registers with V[0] to V[x] loaded from I to I + x (R145). -/
def State.loadedBlock (s : State) (x : Reg) : Vector Byte 16 :=
  Vector.ofFn fun k : Fin 16 => if k.val ≤ x.val then s.mem.read (s.dataAddr k.val) else s.v[k.val]

/-- The three decimal digits of a byte, hundreds first (R143). -/
def decimalDigits (b : Byte) : List Byte :=
  [BitVec.ofNat 8 (b.toNat / 100), BitVec.ofNat 8 (b.toNat / 10 % 10), BitVec.ofNat 8 (b.toNat % 10)]

/-- The address of glyph `b`: the whole byte times 5 (R142, D30). -/
def glyphAddr (b : Byte) : Word := b.setWidth 16 * 5

/-- `if c: PC <- PC + 2` (R114). -/
def State.skipIf (s : State) (c : Bool) : State := if c then s.setPc (s.pc + 2) else s

/-- `V[x]` names a key (R160, R161). -/
def State.keyIndexOk (s : State) (x : Reg) : Bool := decide ((s.getV x).toNat ≤ 15)

/-- `key[V[x]]`; read only where `keyIndexOk` holds. -/
def State.keyAtV (s : State) (x : Reg) : Bool := s.key (Fin.ofNat 16 (s.getV x).toNat)

/-- The lowest-numbered key that is down: FX0A's scan of 0 to 15 in ascending order (R162). -/
def State.firstKeyDown (s : State) : Option (Fin 16) := (List.finRange 16).find? fun k => s.key k

/-- What FX0A stores for key `k`: its index where `FX0A_STORES_INDEX` is set, else 0x01 (R162, D13; log 3). -/
def keyStoreValue (storesIndex : Bool) (k : Fin 16) : Byte :=
  if storesIndex then BitVec.ofNat 8 k.val else 0x01

end Sys2Proof.Machine
end

