-- ==== Sys2Proof/Machine/ControlFlow.lean ====
section
/-! DEFINITION. Control transfer (spec/41_control_flow.md). `s` is the state after the fetch: its PC is the
address of the instruction plus 2 (R92). -/

namespace Sys2Proof.Machine

/-- 00EE (R100). -/
def execRet (s : State) : Outcome :=
  if h : s.sp.val ≠ 0 then .next (s.popPc h) else .next (s.raise .stackUnderflow)

/-- 0NNN (R101). -/
def execSys (nnn : Imm12) (s : State) : Outcome := .next (s.setPc (addrOfImm nnn))

/-- 1NNN (R102). -/
def execJp (nnn : Imm12) (s : State) : Outcome := .next (s.setPc (addrOfImm nnn))

/-- 2NNN (R103). -/
def execCall (nnn : Imm12) (s : State) : Outcome :=
  if h : s.sp.val < 12 then .next ((s.push s.pc h).setPc (addrOfImm nnn))
  else .next (s.raise .stackOverflow)

/-- BNNN (R104). -/
def execJpV0 (nnn : Imm12) (s : State) : Outcome :=
  .next (s.setPc (s.wideV regV0 + addrOfImm nnn))

end Sys2Proof.Machine
end

