-- ==== Sys2Proof/Machine/Flags.lean ====
section
/-! DEFINITION. The values VF takes as a flag (spec/10_state.md R22): each is 0x00 or 0x01. The collision
flag of DXYN is computed cell by cell in Machine/Display.lean (spec/45_display.md R152). -/

namespace Sys2Proof.Machine

/-- A flag as a byte. -/
def flagByte (c : Bool) : Byte := if c then 0x01 else 0x00

/-- 8XY4: carry out of bit 7 of the wide sum (R126). -/
def carryFlag (a b : Byte) : Byte := flagByte (decide (a.toNat + b.toNat > 255))

/-- 8XY5 and 8XY7: the strict unsigned comparison (R127, R129, D33). -/
def greaterFlag (a b : Byte) : Byte := flagByte (decide (a.toNat > b.toNat))

/-- 8XY6: the bit shifted out on the right (R128). -/
def rightBitOut (a : Byte) : Byte := a &&& 0x01

/-- 8XYE: the bit shifted out on the left (R130). -/
def leftBitOut (a : Byte) : Byte := (a &&& 0x80) >>> 7

/-- `V[15] <- f`. -/
def State.setVF (s : State) (f : Byte) : State := s.setV regVF f

end Sys2Proof.Machine
end

