-- ==== Sys2Proof/Machine/Display.lean ====
section
/-! DEFINITION. The display instructions (spec/45_display.md). -/

namespace Sys2Proof.Machine

/-- 00E0 (R150). -/
def execCls (s : State) : Outcome := .next { s with disp := Display.blank }

/-- One sprite bit at a row and column: dropped off the screen, no change where it is 0, otherwise the cell is
flipped and a lit cell sets VF (R151, R152). -/
def State.drawBit (s : State) (row col : Nat) (on : Bool) : State :=
  if h : row < 32 ∧ col < 64 then
    if on then
      if s.pixel ⟨row, h.1⟩ ⟨col, h.2⟩ then (s.setPixel ⟨row, h.1⟩ ⟨col, h.2⟩ false).setVF 0x01
      else s.setPixel ⟨row, h.1⟩ ⟨col, h.2⟩ true
    else s
  else s

/-- The eight bits of a sprite byte, bit 7 leftmost (R151, D31; log 15). -/
def State.drawByte (s : State) (row x0 : Nat) (b : Byte) : State :=
  (List.range 8).foldl (fun t c => t.drawBit row (x0 + c) (b.getLsbD (7 - c))) s

/-- The `n` rows of the sprite at I (R151). -/
def State.drawSprite (s : State) (x0 y0 n : Nat) : State :=
  (List.range n).foldl (fun t r => t.drawByte (y0 + r) x0 (t.mem.read (t.dataAddr r))) s

/-- DXYN (R151): coordinates read first (D10; log 13), VF reset, then the rows in ascending order. -/
def execDrw (x y : Reg) (n : Nibble) (s : State) : Outcome :=
  orRaise (s.rangeOk n.val) .memOutOfRange s
    ((s.setVF 0x00).drawSprite ((s.getV x).toNat % 64) ((s.getV y).toNat % 32) n.val)

end Sys2Proof.Machine
end

