-- ==== Sys2Proof/Machine/IndexMemory.lean ====
section
/-! DEFINITION. Index register and memory transfer (spec/44_index_memory.md). -/

namespace Sys2Proof.Machine

/-- ANNN (R140). -/
def execLdI (nnn : Imm12) (s : State) : Outcome := .next (s.setI (addrOfImm nnn))

/-- FX1E (R141). -/
def execAddI (x : Reg) (s : State) : Outcome := .next (s.setI (s.i + s.wideV x))

/-- FX29 (R142). -/
def execLdF (x : Reg) (s : State) : Outcome := .next (s.setI (glyphAddr (s.getV x)))

/-- FX33 (R143). -/
def execLdB (x : Reg) (s : State) : Outcome :=
  orRaise (s.rangeOk 3) .memOutOfRange s
    { s with mem := s.mem.writeBytes (s.dataAddr 0) (decimalDigits (s.getV x)) }

/-- FX55 (R144). -/
def execStoreRegs (x : Reg) (s : State) : Outcome :=
  orRaise (s.rangeOk (x.val + 1)) .memOutOfRange s
    { s with mem := s.mem.writeBytes (s.dataAddr 0) (s.regBlock x) }

/-- FX65 (R145). -/
def execLoadRegs (x : Reg) (s : State) : Outcome :=
  orRaise (s.rangeOk (x.val + 1)) .memOutOfRange s { s with v := s.loadedBlock x }

end Sys2Proof.Machine
end

