-- ==== Sys2Proof/Machine/KeypadTimers.lean ====
section
/-! DEFINITION. Keypad and timer instructions (spec/46_keypad_timers.md). -/

namespace Sys2Proof.Machine

/-- EX9E (R160). -/
def execSkp (x : Reg) (s : State) : Outcome :=
  orRaise (s.keyIndexOk x) .keyIndexOutOfRange s (s.skipIf (s.keyAtV x))

/-- EXA1 (R161). -/
def execSknp (x : Reg) (s : State) : Outcome :=
  orRaise (s.keyIndexOk x) .keyIndexOutOfRange s (s.skipIf (!s.keyAtV x))

/-- FX07 (R163). -/
def execLdVxDt (x : Reg) (s : State) : Outcome := .next (s.setV x s.dt)

/-- FX0A (R162): PC back to this instruction; if a key is down, its value is stored and PC goes on. -/
def execLdVxK (x : Reg) (s : State) : Outcome :=
  let t := s.setPc (s.pc - 2)
  match t.firstKeyDown with
  | none => .next t
  | some k => .next ((t.setV x (keyStoreValue t.config.fx0aStoresIndex k)).setPc (t.pc + 2))

/-- FX15 (R164). -/
def execLdDtVx (x : Reg) (s : State) : Outcome := .next { s with dt := s.getV x }

/-- FX18 (R165). -/
def execLdStVx (x : Reg) (s : State) : Outcome := .next { s with st := s.getV x }

end Sys2Proof.Machine
end

