-- ==== Sys2Proof/Machine/LoadAlu.lean ====
section
/-! DEFINITION. Register load and ALU (spec/43_load_alu.md). Statements run in the order the spec writes them
and each reads what the earlier ones left (R11, D9; log 12). -/

namespace Sys2Proof.Machine

/-- 6XNN (R120). -/
def execLdImm (x : Reg) (nn : Byte) (s : State) : Outcome := .next (s.setV x nn)

/-- 7XNN (R121). -/
def execAddImm (x : Reg) (nn : Byte) (s : State) : Outcome := .next (s.setV x (s.getV x + nn))

/-- 8XY0 (R122). -/
def execLdReg (x y : Reg) (s : State) : Outcome := .next (s.setV x (s.getV y))

/-- 8XY1 (R123). -/
def execOrReg (x y : Reg) (s : State) : Outcome := .next (s.setV x (s.getV x ||| s.getV y))

/-- 8XY2 (R124). -/
def execAndReg (x y : Reg) (s : State) : Outcome := .next (s.setV x (s.getV x &&& s.getV y))

/-- 8XY3 (R125). -/
def execXorReg (x y : Reg) (s : State) : Outcome := .next (s.setV x (s.getV x ^^^ s.getV y))

/-- 8XY4 (R126): the sum, then the carry of the operands read before it. -/
def execAddReg (x y : Reg) (s : State) : Outcome :=
  .next ((s.setV x (s.getV x + s.getV y)).setVF (carryFlag (s.getV x) (s.getV y)))

/-- 8XY5 (R127): the flag, then the difference of the registers as the flag left them. -/
def execSubReg (x y : Reg) (s : State) : Outcome :=
  let t := s.setVF (greaterFlag (s.getV x) (s.getV y))
  .next (t.setV x (t.getV x - t.getV y))

/-- 8XY6 (R128): the flag, then the shift; `Y` is ignored. -/
def execShr (x _y : Reg) (s : State) : Outcome :=
  let t := s.setVF (rightBitOut (s.getV x))
  .next (t.setV x (t.getV x >>> 1))

/-- 8XY7 (R129): the flag, then the difference of the registers as the flag left them. -/
def execSubnReg (x y : Reg) (s : State) : Outcome :=
  let t := s.setVF (greaterFlag (s.getV y) (s.getV x))
  .next (t.setV x (t.getV y - t.getV x))

/-- 8XYE (R130): the flag, then the shift; `Y` is ignored. -/
def execShl (x _y : Reg) (s : State) : Outcome :=
  let t := s.setVF (leftBitOut (s.getV x))
  .next (t.setV x (t.getV x <<< 1))

/-- CXNN for a given random byte (R131). -/
def rndWith (r : Byte) (x : Reg) (nn : Byte) (s : State) : State := s.setV x (r &&& nn)

/-- CXNN (R131): one draw of the free input `rnd` (log 9). -/
def execRnd (x : Reg) (nn : Byte) (s : State) : Outcome :=
  .next (rndWith (Config.randomByte s.rndDraws) x nn { s with rndDraws := s.rndDraws + 1 })

end Sys2Proof.Machine
end

