-- ==== Sys2Proof/Machine/Skips.lean ====
section
/-! DEFINITION. Conditional skips on registers (spec/42_skips.md). -/

namespace Sys2Proof.Machine

/-- 3XNN (R110). -/
def execSeImm (x : Reg) (nn : Byte) (s : State) : Outcome := .next (s.skipIf (s.getV x == nn))

/-- 4XNN (R111). -/
def execSneImm (x : Reg) (nn : Byte) (s : State) : Outcome := .next (s.skipIf (s.getV x != nn))

/-- 5XYN, the low nibble ignored (R112, R79). -/
def execSeReg (x y : Reg) (_n : Nibble) (s : State) : Outcome :=
  .next (s.skipIf (s.getV x == s.getV y))

/-- 9XYN, the low nibble ignored (R113, R79). -/
def execSneReg (x y : Reg) (_n : Nibble) (s : State) : Outcome :=
  .next (s.skipIf (s.getV x != s.getV y))

end Sys2Proof.Machine
end

