-- ==== Sys2Proof/Machine/Unrecognised.lean ====
section
/-! DEFINITION. Unrecognised opcodes (spec/40_dispatch_cycle.md R95): no change but the fetch increment
already made, and the event DIAG(opcode, post-fetch PC). -/

namespace Sys2Proof.Machine

/-- `emit DIAG(opcode, PC)` (R95, R182). -/
def State.diagnose (s : State) (i : Instr) : State := s.emit (.diag (encodeWord i) s.pc)

/-- 8XY8 to 8XYD and 8XYF (R95). -/
def execUnrecognised8 (x y : Reg) (n : Nibble) (s : State) : Outcome :=
  .next (s.diagnose (.unrecognised8 x y n))

/-- EXNN outside the table (R95). -/
def execUnrecognisedE (x : Reg) (nn : Byte) (s : State) : Outcome :=
  .next (s.diagnose (.unrecognisedE x nn))

/-- FXNN outside the table (R95). -/
def execUnrecognisedF (x : Reg) (nn : Byte) (s : State) : Outcome :=
  .next (s.diagnose (.unrecognisedF x nn))

end Sys2Proof.Machine
end

