-- ==== Sys2Proof/Machine/Tick.lean ====
section
/-! DEFINITION. The tick sequence (spec/60_exceptions.md R185 to R193) and what the machine does next:
the moves between two ticks, the move that runs one instruction, the move that ends a tick. -/

namespace Sys2Proof.Machine

/-- A tick in which the host does nothing in step (a) (R186). -/
def TickInput.silent : TickInput := { keyEvents := [], runRequest := none }

/-- The key events of a tick, in call order (R186). -/
def State.applyKeys (s : State) (events : List (Fin 16 × Bool)) : State :=
  events.foldl (fun t e => t.setKey e.1 e.2) s

/-- Step (a): the key events, then the run request (R185, R186). -/
def State.applyInput (s : State) (input : TickInput) : State :=
  let t := s.applyKeys input.keyEvents
  { t with runState := input.runRequest.getD t.runState }

/-- How many instructions the batch of a tick has (R187, R192): none in STOPPED. -/
def State.batchSize (s : State) : Nat := if s.runState = .running then s.config.ipt else 0

/-- The move that starts a tick: step (a); if the host asked for QUIT the session is over, otherwise the batch
begins (R185, R186). -/
def State.beginTick (s : State) (input : TickInput) : State :=
  let t := (s.emit .none).applyInput input
  if t.runState = .quit then t else { t with phase := .batch t.batchSize }

/-- A timer after step (f): one less, floored at 0 (R190). -/
def countDown (b : Byte) : Byte := if b = 0 then 0 else b - 1

/-- The move that ends a tick: step (d), then (e), then (f) (R185, R188 to R190). -/
def State.endTick (s : State) : State :=
  if s.pc.toNat ≥ Config.memSize then s.raise .pcOutOfRange
  else
    { s with
      event := .display s.disp
      dt := countDown s.dt
      st := countDown s.st
      phase := .boundary }

/-- What the machine does next. -/
inductive Move where
  /-- no move is defined -/
  | stop (r : Fault)
  /-- a move that runs no instruction -/
  | go (s : State)
  /-- run `i` on the state after the fetch -/
  | run (i : Instr) (s : State)
  deriving DecidableEq, Repr

/-- One instruction of a batch (R90 to R93): the fetch check, then fetch, PC increment and decode. -/
def State.instrMove (s : State) : Move :=
  if s.canFetch then .run (decodeWord s.fetchWord) ((s.emit .none).setPc (s.pc + 2))
  else .go (s.raise .pcOutOfRange)

/-- A session that is over: only `reset` does anything, a tick is ignored (R193, R212). -/
def State.endedMove (s : State) : Move :=
  match s.inbox with
  | [] => .stop .sessionEnded
  | .tick _ :: rest => .go { s with inbox := rest, event := .none }
  | .reset _ config font rom :: rest => .go (s.restart config font rom rest)

/-- Between two ticks: the host's next delivery, a reset whatever place it names (log 21); an empty `inbox`
stands for a tick without events
(log 7). -/
def State.boundaryMove (s : State) : Move :=
  match s.inbox with
  | [] => .go (s.beginTick TickInput.silent)
  | .tick input :: rest => .go ({ s with inbox := rest }.beginTick input)
  | .reset _ config font rom :: rest => .go (s.restart config font rom rest)

/-- Inside a tick: the next step of the batch, or the end of the tick (R185). -/
def State.batchMove (s : State) : Nat → Move
  | 0 => .go s.endTick
  | left + 1 =>
    if s.runState = .running then { s with phase := .batch left }.instrMove
    else .stop .stepUndefined

/-- A reset that comes inside a tick, at this place of it: the tick is cut off there (R212; log 21). -/
def State.resetInTick (s : State) : Option State :=
  match s.inbox with
  | [] => none
  | .tick _ :: _ => none
  | .reset place config font rom :: rest =>
    if place = s.phase then some (s.restart config font rom rest) else none

/-- Inside a tick with `left` steps of the batch to run: a reset that comes here, else the tick goes on. -/
def State.tickMove (s : State) (left : Nat) : Move :=
  match s.resetInTick with
  | some t => .go t
  | none => s.batchMove left

/-- The machine's next move. -/
def State.nextMove (s : State) : Move :=
  if s.ended then s.endedMove
  else
    match s.phase with
    | .boundary => s.boundaryMove
    | .batch left => s.tickMove left

/-! ## Placing an instruction for the host -/

/-- A batch with a step left: the one under way, or a new one. -/
def Phase.live : Phase → Phase
  | .batch (left + 1) => .batch (left + 1)
  | .batch 0 => .batch 1
  | .boundary => .batch 1

/-- The same with one more step left. -/
def Phase.later : Phase → Phase
  | .batch left => .batch (left + 1)
  | .boundary => .batch 1

/-- A state whose next move is an instruction fetch: RUNNING, no fault recorded, a step of the batch left, and
no reset that comes first (log 22). -/
def State.readyToFetch (s : State) : State :=
  let t := { s with runState := .running, faultCause := .none, phase := s.phase.live }
  match t.resetInTick with
  | none => t
  | some _ => { t with phase := t.phase.later }

/-- Store an opcode at PC, high byte first (R53). -/
def State.placeWord (s : State) (w : Word) : State :=
  { s with mem := s.mem.writeBytes s.pc.toNat [highByte w, lowByte w] }

end Sys2Proof.Machine
end

