-- ==== Sys2Proof/Machine/Step.lean ====
section
/-! DEFINITION. One move of the machine: an instruction of a batch, or a move of the tick sequence between
batches (spec/40_dispatch_cycle.md R90, spec/60_exceptions.md R185). -/

namespace Sys2Proof.Machine

/-- One move. -/
def step (s : State) : Host.Outcome State Fault Refusal :=
  match s.nextMove with
  | .stop r => .fault r
  | .go t => .next t
  | .run i t => exec i t

/-- `s` with the opcode-table word `w` of `nbits` bits at its PC, and ready to fetch it in the very next
step (log 5). -/
def State.withFetchWord (s : State) (nbits w : Nat) : State :=
  (s.placeWord (tableWord nbits w)).readyToFetch

end Sys2Proof.Machine
end

