-- ==== Sys2Proof/Machine/TickSequence.lean ====
section
/-! DEFINITION. One whole tick as a function, written from the pseudocode of spec/60_exceptions.md R185. The
machine itself goes through a tick move by move (`step`); a statement says that the two agree. -/

namespace Sys2Proof.Machine

/-- `Step()` (R90 to R94) as a function on states. -/
def State.instrStep (s : State) : State :=
  match s.instrMove with
  | .stop _ => s
  | .go t => t
  | .run i t =>
    match exec i t with
    | .next u => u
    | .fault _ => t
    | .refused _ => t

/-- `repeat k times: Step(); if fault_cause != 0: stop here` (R185 (b, c)). -/
def State.runBatch : Nat → State → State
  | 0, s => s
  | k + 1, s =>
    if s.instrStep.faultCause = .none then State.runBatch k s.instrStep else s.instrStep

/-- Steps (d) to (f) of a tick (R185). -/
def State.closeTick (s : State) : State :=
  if s.faultCause ≠ .none then s
  else if s.pc.toNat ≥ 0x1000 then s.raise .pcOutOfRange
  else { s with event := .display s.disp, dt := countDown s.dt, st := countDown s.st }

/-- `Tick(key_events, run_request)` (R185), for a session that is not over. The free input `rnd` is drawn by
the steps themselves. -/
def State.wholeTick (s : State) (input : TickInput) : State :=
  let a := (s.emit .none).applyInput input
  if a.runState = .quit then a
  else State.closeTick (if a.runState = .running then State.runBatch a.config.ipt a else a)

end Sys2Proof.Machine
end

