-- ==== Sys2Proof/Safety.lean ====
section
/-! DEFINITION. What a safe run is, the invariant of the machine, and the words in which statements are
written: what a move changes and leaves unchanged, the faults the spec's table gives each instruction. -/

namespace Sys2Proof.Claims

open Sys2Proof.Machine

/-! ## Safe runs and the invariant -/

/-- `k` moves from `s` end in a next state in which no fault has been recorded. -/
def SafeFor (k : Nat) (s : State) : Prop :=
  ∃ t, Host.Core.run Sys2Proof.core k s = .next t ∧ t.faultCause = .none

/-- The invariant of spec/10_state.md R35, with the bound on PC of R24 (d) and the relations between the
model's own fields and the spec's. `SP <= 12` is in the type of `sp`. -/
structure Inv (s : State) : Prop where
  /-- memory is in canonical form -/
  memory : s.mem.wf = true
  /-- no arithmetic on PC exceeds 0x10FE (R24, D32) -/
  pcBound : s.pc.toNat ≤ 0x10FE
  /-- slots in use hold the address after a 2NNN (R35) -/
  slots : ∀ k : Fin 12, k.val < s.sp.val → 0x002 ≤ s.stack[k.val].toNat ∧ s.stack[k.val].toNat ≤ 0x1000
  /-- at the start of every tick PC is at most 0xFFF (R35, R188) -/
  tickStart : s.phase = .boundary → s.ended = false → s.pc.toNat ≤ 0xFFF
  /-- a recorded fault means QUIT (R177) -/
  faultQuits : s.faultCause ≠ .none → s.runState = .quit
  /-- a batch with steps left is not STOPPED (R185 (b, c)) -/
  batchRuns : ∀ n, s.phase = .batch (n + 1) → s.runState ≠ .stopped

/-! ## Resets -/

/-- The host's next delivery is a reset and it comes now (R212): the session is over, or the machine stands
between two ticks, or at the place inside a tick that the delivery names (log 21). -/
def ResetLands (s : State) : Prop :=
  ∃ place config font rom rest, s.inbox = .reset place config font rom :: rest ∧
    (s.ended = true ∨ s.phase = .boundary ∨ s.phase = place)

/-! ## Frames -/

/-- Every byte of memory reads as before. -/
def SameBytes (s t : State) : Prop := ∀ a, t.mem.read a = s.mem.read a

/-- Nothing changed but general registers: every other field is equal, memory byte for byte among them. -/
def OnlyRegs (s t : State) : Prop := t = { s with v := t.v } ∧ SameBytes s t

/-- Nothing changed but `V[x]`. -/
def OnlyReg (s t : State) (x : Reg) : Prop := OnlyRegs s t ∧ ∀ r, r ≠ x → t.getV r = s.getV r

/-- Nothing changed but `V[x]` and VF. -/
def OnlyRegAndVF (s t : State) (x : Reg) : Prop :=
  OnlyRegs s t ∧ ∀ r, r ≠ x → r ≠ regVF → t.getV r = s.getV r

/-- Nothing changed but PC. -/
def OnlyPc (s t : State) : Prop := t = { s with pc := t.pc } ∧ SameBytes s t

/-- Nothing changed but I. -/
def OnlyI (s t : State) : Prop := t = { s with i := t.i } ∧ SameBytes s t

/-- Nothing changed but memory, and there only the `n` bytes from address `a` on. -/
def OnlyBytes (s t : State) (a n : Nat) : Prop :=
  t = { s with mem := t.mem } ∧ ∀ b, b < a ∨ a + n ≤ b → t.mem.read b = s.mem.read b

/-- What the byte at `a` is after `bytes` are stored from I on: the byte stored there, else the old one. -/
def overlaid (s : State) (bytes : List Byte) (a : Nat) : Byte :=
  if s.i.toNat ≤ a then bytes.getD (a - s.i.toNat) (s.mem.read a) else s.mem.read a

/-! ## Faults -/

/-- The state after fault entry (R177), written out: cause, PC and run state recorded, `fault_out` emitted,
nothing else changed. -/
def faulted (s : State) (cause : FaultCause) : State :=
  { s with
    faultCause := cause
    faultPc := s.pc
    runState := .quit
    event := .fault cause s.pc }

/-- The fault the table of R170 gives an instruction in a state, `none` where it completes. -/
def faultOf (i : Instr) (s : State) : FaultCause :=
  match i with
  | .ret => if s.sp.val = 0 then .stackUnderflow else .none
  | .call _ => if s.sp.val = 12 then .stackOverflow else .none
  | .ldB _ => if s.i.toNat + 2 > 0xFFF then .memOutOfRange else .none
  | .storeRegs x => if s.i.toNat + x.val > 0xFFF then .memOutOfRange else .none
  | .loadRegs x => if s.i.toNat + x.val > 0xFFF then .memOutOfRange else .none
  | .drw _ _ n => if 0 < n.val ∧ s.i.toNat + n.val - 1 > 0xFFF then .memOutOfRange else .none
  | .skp x => if (s.getV x).toNat > 15 then .keyIndexOutOfRange else .none
  | .sknp x => if (s.getV x).toNat > 15 then .keyIndexOutOfRange else .none
  | _ => .none

/-! ## Registers an instruction names -/

/-- The instructions that write VF as a flag (R22). -/
def writesFlag : Instr → Bool
  | .addReg _ _ => true
  | .subReg _ _ => true
  | .shr _ _ => true
  | .subnReg _ _ => true
  | .shl _ _ => true
  | .drw _ _ _ => true
  | _ => false

/-- `V[r]` is written by the instruction as its destination (R20, R22); a flag is not counted here. -/
def names (i : Instr) (r : Reg) : Bool :=
  match i with
  | .ldImm x _ => x == r
  | .addImm x _ => x == r
  | .ldReg x _ => x == r
  | .orReg x _ => x == r
  | .andReg x _ => x == r
  | .xorReg x _ => x == r
  | .addReg x _ => x == r
  | .subReg x _ => x == r
  | .shr x _ => x == r
  | .subnReg x _ => x == r
  | .shl x _ => x == r
  | .rnd x _ => x == r
  | .ldVxDt x => x == r
  | .ldVxK x => x == r
  | .loadRegs x => decide (r.val ≤ x.val)
  | _ => false

/-! ## The display -/

/-- The sprite's bit for the cell at row `r` and column `c`: the sprite of `n` rows at I, its top left cell at
row `y0` and column `x0`, bit 7 leftmost (R151); false outside the sprite. -/
def spriteBit (s : State) (x0 y0 n r c : Nat) : Bool :=
  decide (y0 ≤ r ∧ r < y0 + n ∧ x0 ≤ c ∧ c < x0 + 8) &&
    (s.mem.read (s.i.toNat + (r - y0))).getLsbD (7 - (c - x0))

/-! ## The keypad -/

/-- What the last `setKey` of a key in a tick's events says, if any (R186 "the last call for an index
wins"). -/
def lastPress (events : List (Fin 16 × Bool)) (k : Fin 16) : Option Bool :=
  (events.filter fun e => e.1 == k).getLast?.map Prod.snd

end Sys2Proof.Claims
end

