-- ==== Sys2Proof/Certificates/Slice0/Obligations.lean ====
section
/-! DEFINITION. The statements for the provers. `s` is the state `exec` gets: the state after the fetch, whose
PC is the address of the instruction plus 2 (spec/40_dispatch_cycle.md R92). -/

open Sys2Proof Sys2Proof.Machine Sys2Proof.Claims

/-! ## Encoding -/

/-- Every well-formed instruction is read back from its own bytes, whatever bytes follow (R70, R72). -/
def Obligations.DecodeOfEncodeIsIdentity : Prop :=
  ∀ (i : Instr) (rest : List Byte), i.wf = true → decode (encode i ++ rest) = .ok (i, rest)

/-- Every opcode decodes to a well-formed instruction whose encoding is that opcode: no two opcodes share an
instruction and no bit is dropped (R81). -/
def Obligations.EncodeOfDecodeIsIdentity : Prop :=
  ∀ w : Word, (decodeWord w).wf = true ∧ encodeWord (decodeWord w) = w

/-- A decoder that takes the first matching row of the opcode table agrees with the two-level dispatch, and
two rows of the table overlap only where R85 says so: 0NNN with 00E0 and 00EE, and each catch-all row with
the instructions of its own category. -/
def Obligations.FirstMatchingTableRowIsTheDispatch : Prop :=
  (∀ w : Word, decodeByTable w = some (decodeWord w)) ∧
  ∀ (w : Word) (a b : Fin 38) (p q : TableRow), a < b →
    tableRows[a.val]? = some p → tableRows[b.val]? = some q →
    p.selects w = true → q.selects w = true →
      (b.val = 2 ∧ a.val < 2) ∨ (b.val = 35 ∧ 10 ≤ a.val ∧ a.val ≤ 18) ∨
      (b.val = 36 ∧ 24 ≤ a.val ∧ a.val ≤ 25) ∨ (b.val = 37 ∧ 26 ≤ a.val ∧ a.val ≤ 34)

/-- Opcodes of the spec's decode table (95_test_vectors.md 2.1), one or more of every family, three of them
unrecognised. That 0x5AB7 is 5XY0 with its low nibble ignored rests on the spec's own decision D12 (log 14);
the last line, the byte order, on scenario S1 and R53, which the spec derives (log 27). -/
def Obligations.SampleOpcodesDecode : Prop :=
  decodeWord 0xD123 = .drw 1 2 3 ∧ decodeWord 0x00E0 = .cls ∧ decodeWord 0x00EE = .ret ∧
  decodeWord 0x00E1 = .sys 0x0E1 ∧ decodeWord 0x01E0 = .sys 0x1E0 ∧
  decodeWord 0x5AB7 = .seReg 0xA 0xB 7 ∧ decodeWord 0x8AB6 = .shr 0xA 0xB ∧
  decodeWord 0x8AB8 = .unrecognised8 0xA 0xB 8 ∧ decodeWord 0xE19E = .skp 1 ∧
  decodeWord 0xE19F = .unrecognisedE 1 0x9F ∧ decodeWord 0xF155 = .storeRegs 1 ∧
  decodeWord 0xF175 = .unrecognisedF 1 0x75 ∧
  decode [0x60, 0x05, 0x70, 0x03] = .ok (.ldImm 0 0x05, [0x70, 0x03])

/-- The low nibble of a category 0x5 or 0x9 opcode is ignored: it decodes to 5XY0 or 9XY0 with that nibble
kept, which runs as with nibble 0 (R79; the spec's own decision D12, log 14). -/
def Obligations.LowNibbleOfRegisterSkipsIsIgnored : Prop :=
  ∀ (x y : Reg) (n : Nibble) (s : State),
    decodeWord (encodeXYN 0x5 x y n) = .seReg x y n ∧
    decodeWord (encodeXYN 0x9 x y n) = .sneReg x y n ∧
    exec (.seReg x y n) s = exec (.seReg x y 0) s ∧
    exec (.sneReg x y n) s = exec (.sneReg x y 0) s

/-! ## Memory -/

/-- A read returns the last byte written to that address, and a write of the value already there changes
nothing (R57, which the spec derives), for memory in canonical form (which every operation keeps). -/
def Obligations.ReadReturnsLastByteWritten : Prop :=
  ∀ (m : Memory) (a : Nat) (b : Byte), m.wf = true → a < 4096 →
    (m.write a b).read a = b ∧
    (∀ a', a' ≠ a → (m.write a b).read a' = m.read a') ∧
    m.write a (m.read a) = m

/-- Memories in canonical form that read alike at every address are the same data. -/
def Obligations.CanonicalMemoryIsItsReads : Prop :=
  ∀ m m' : Memory, m.wf = true → m'.wf = true → (∀ a, a < 4096 → m.read a = m'.read a) → m = m'

/-- A byte stored by FX55 or FX33 is seen by the very next fetch, without any action (R61, which the spec
derives): each of the two bytes at PC, on its own, is the byte just stored there if the store covers it, and
the old byte of memory if not; the one at the lower address is the high byte (R53, log 27). -/
def Obligations.StoreIsSeenByNextFetch : Prop :=
  ∀ (x : Reg) (s : State), s.mem.wf = true →
    (s.i.toNat + x.val ≤ 0xFFF → ∃ t, exec (.storeRegs x) s = .next t ∧ t.pc = s.pc ∧
      t.fetchWord = wordOfBytes (overlaid s (s.v.toList.take (x.val + 1)) s.pc.toNat)
        (overlaid s (s.v.toList.take (x.val + 1)) (s.pc.toNat + 1))) ∧
    (s.i.toNat + 2 ≤ 0xFFF → ∃ t, exec (.ldB x) s = .next t ∧ t.pc = s.pc ∧
      t.fetchWord = wordOfBytes (overlaid s (decimalDigits (s.getV x)) s.pc.toNat)
        (overlaid s (decimalDigits (s.getV x)) (s.pc.toNat + 1)))

/-! ## The instruction cycle -/

/-- A step of a batch runs the instruction decoded from the two bytes at PC, on the state with PC advanced by
2 (R90, R92, R93), unless a reset comes just there. Around `exec` the model counts the batch slot and clears
the last event, which are its own (DESIGN CHOICES, logs 6 and 10); the place of a reset is log 21, the order
of the two bytes log 27. -/
def Obligations.StepRunsDecodedInstruction : Prop :=
  ∀ (s : State) (left : Nat) (i : Instr) (rest : List Byte),
    s.runState = .running → s.faultCause = .none → s.phase = .batch (left + 1) →
    s.pc.toNat ≤ 0xFFE → ¬ ResetLands s →
    decode [s.mem.read s.pc.toNat, s.mem.read (s.pc.toNat + 1)] = .ok (i, rest) →
    step s = exec i { s with phase := .batch left, event := .none, pc := s.pc + 2 }

/-- A step with PC above 0xFFE raises PC_OUT_OF_RANGE and does nothing else: PC is not advanced (R91; the
spec's own decisions D3 and D4, log 16). -/
def Obligations.FetchCheckRaisesPcOutOfRange : Prop :=
  ∀ (s : State) (left : Nat), s.runState = .running → s.faultCause = .none →
    s.phase = .batch (left + 1) → s.pc.toNat > 0xFFE → ¬ ResetLands s →
    step s = .next (faulted { s with phase := .batch left } .pcOutOfRange)

/-- A step on an unrecognised opcode changes nothing but the fetch increment and emits DIAG with that opcode
and the post-fetch PC (R95; the event's payload is the spec's own decision D21). -/
def Obligations.UnrecognisedOpcodeIsNoOpWithDiagnostic : Prop :=
  (∀ (s : State) (left : Nat) (w : Word) (x y : Reg) (n : Nibble) (nn : Byte),
    s.runState = .running → s.faultCause = .none → s.phase = .batch (left + 1) →
    s.pc.toNat ≤ 0xFFE → ¬ ResetLands s → s.fetchWord = w →
    (decodeWord w = .unrecognised8 x y n ∨ decodeWord w = .unrecognisedE x nn ∨
      decodeWord w = .unrecognisedF x nn) →
    step s = .next { s with
      phase := .batch left, pc := s.pc + 2, event := .diag w (s.pc + 2) }) ∧
  ∀ (x y : Reg) (n : Nibble) (nn : Byte) (s : State),
    exec (.unrecognised8 x y n) s = .next { s with event := .diag (encodeXYN 0x8 x y n) s.pc } ∧
    exec (.unrecognisedE x nn) s = .next { s with event := .diag (encodeXNN 0xE x nn) s.pc } ∧
    exec (.unrecognisedF x nn) s = .next { s with event := .diag (encodeXNN 0xF x nn) s.pc }

/-- Every instruction answers a next state in every state: no instruction is refused or stuck (R81). -/
def Obligations.EveryInstructionAnswersNext : Prop :=
  ∀ (i : Instr) (s : State), ∃ t, exec i s = .next t

/-- An operation that raises a fault changes nothing else: the result is the state after the fetch with fault
entry applied, the fault being the one of R170 for that instruction; otherwise no fault is recorded and the
run state stays (R94, R177; the spec's own decisions D6, D7, D8, D11). -/
def Obligations.FaultingInstructionHasNoOtherEffect : Prop :=
  ∀ (i : Instr) (s : State),
    (faultOf i s ≠ .none → exec i s = .next (faulted s (faultOf i s))) ∧
    (faultOf i s = .none →
      ∃ t, exec i s = .next t ∧ t.faultCause = s.faultCause ∧ t.faultPc = s.faultPc ∧
        t.runState = s.runState)

/-- What an instruction never does: it never changes a key, DT or ST but by FX15 and FX18, or the run state
but by a fault, never publishes the display, never writes a stack slot but in 2NNN, never moves SP but in
2NNN and 00EE, and what it does does not depend on the stack's slots but in 00EE (R97, which the spec
derives). The session's configuration, the tick phase and the host's deliveries stay; only CXNN draws. The
last clause compares two executions of one instruction; for CXNN they get the same value of the free input
`rnd`, which is R90's `Step(state, rnd)` at one `rnd` (log 9). -/
def Obligations.InstructionsNeverTouchHostState : Prop :=
  ∀ (i : Instr) (s : State), ∃ t, exec i s = .next t ∧
    t.keys = s.keys ∧ t.config = s.config ∧ t.phase = s.phase ∧ t.inbox = s.inbox ∧
    ((∀ x, i ≠ .ldDtVx x) → t.dt = s.dt) ∧ ((∀ x, i ≠ .ldStVx x) → t.st = s.st) ∧
    ((∀ x nn, i ≠ .rnd x nn) → t.rndDraws = s.rndDraws) ∧
    (t.runState = s.runState ∨ t = faulted s t.faultCause) ∧
    (s.event = .none → ∀ d, t.event ≠ .display d) ∧
    ((∀ nnn, i ≠ .call nnn) → t.stack = s.stack) ∧
    (i ≠ .ret → (∀ nnn, i ≠ .call nnn) → t.sp = s.sp) ∧
    (i ≠ .ret → ∀ slots : Vector Word 12, ∃ t',
      exec i { s with stack := slots } = .next t' ∧ { t' with stack := t.stack } = t)

/-- VF is the only flag: an instruction that neither writes VF as a flag nor names VF as its destination
leaves it, and one that writes it as a flag and does not name it leaves 0x00 or 0x01 there (R22). -/
def Obligations.OnlyFlagWritersChangeVF : Prop :=
  ∀ (i : Instr) (s : State), ∃ t, exec i s = .next t ∧
    (writesFlag i = false → names i regVF = false → t.getV regVF = s.getV regVF) ∧
    (writesFlag i = true → names i regVF = false → faultOf i s = .none →
      t.getV regVF = 0x00 ∨ t.getV regVF = 0x01)

/-! ## Control transfer -/

/-- 00EE pops PC; with an empty stack it raises STACK_UNDERFLOW (R100, R171). That a pop does not clear the
slot is DEDUCED (the spec's D25, log 28); what fault entry records is the spec's own decision D6 (R177). -/
def Obligations.ReturnPopsProgramCounter : Prop :=
  ∀ s : State,
    (s.sp.val ≠ 0 → ∃ t, exec .ret s = .next t ∧ t.sp.val = s.sp.val - 1 ∧
      s.stack[s.sp.val - 1]? = some t.pc ∧ t = { s with sp := t.sp, pc := t.pc } ∧ SameBytes s t) ∧
    (s.sp.val = 0 → exec .ret s = .next (faulted s .stackUnderflow))

/-- 0NNN and 1NNN set PC to NNN and change nothing else (R101, R102). -/
def Obligations.JumpsSetProgramCounter : Prop :=
  ∀ (nnn : Imm12) (s : State),
    (∃ t, exec (.sys nnn) s = .next t ∧ t.pc.toNat = nnn.toNat ∧ OnlyPc s t) ∧
    (∃ t, exec (.jp nnn) s = .next t ∧ t.pc.toNat = nnn.toNat ∧ OnlyPc s t)

/-- 2NNN pushes the post-fetch PC and jumps; with a full stack it raises STACK_OVERFLOW and writes no slot
(R103, R172). That a slot holds the whole 16-bit PC is DEDUCED (R25, D25, log 28); what fault entry records
is the spec's own decision D6 (R177). -/
def Obligations.CallPushesReturnAddress : Prop :=
  ∀ (nnn : Imm12) (s : State),
    (s.sp.val < 12 → ∃ t, exec (.call nnn) s = .next t ∧ t.stack[s.sp.val]? = some s.pc ∧
      (∀ k, k ≠ s.sp.val → t.stack[k]? = s.stack[k]?) ∧ t.sp.val = s.sp.val + 1 ∧
      t.pc.toNat = nnn.toNat ∧ t = { s with stack := t.stack, sp := t.sp, pc := t.pc } ∧
      SameBytes s t) ∧
    (s.sp.val = 12 → exec (.call nnn) s = .next (faulted s .stackOverflow))

/-- BNNN sets PC to V0 + NNN, not reduced modulo 4096 and not wrapped (R104). -/
def Obligations.OffsetJumpAddsV0 : Prop :=
  ∀ (nnn : Imm12) (s : State), ∃ t, exec (.jpV0 nnn) s = .next t ∧
    t.pc.toNat = (s.getV regV0).toNat + nnn.toNat ∧ OnlyPc s t

/-- A later 00EE at the depth a 2NNN left, with the slot that 2NNN wrote unchanged, restores SP and brings PC
to the address after the 2NNN (R105, which the spec derives). -/
def Obligations.ReturnUndoesCall : Prop :=
  ∀ (nnn : Imm12) (s : State), s.sp.val < 12 → ∃ t, exec (.call nnn) s = .next t ∧
    ∀ u : State, u.sp.val = s.sp.val + 1 → u.stack[s.sp.val]? = t.stack[s.sp.val]? →
      ∃ w, exec .ret u = .next w ∧ w.sp = s.sp ∧ w.pc = s.pc

/-! ## Skips -/

/-- 3XNN and 4XNN add 2 to PC exactly if V[X] equals, or differs from, NN (R110, R111). -/
def Obligations.ImmediateSkipsCompare : Prop :=
  ∀ (x : Reg) (nn : Byte) (s : State),
    (∃ t, exec (.seImm x nn) s = .next t ∧ OnlyPc s t ∧
      t.pc = if s.getV x = nn then s.pc + 2 else s.pc) ∧
    (∃ t, exec (.sneImm x nn) s = .next t ∧ OnlyPc s t ∧
      t.pc = if s.getV x = nn then s.pc else s.pc + 2)

/-- 5XY0 and 9XY0 add 2 to PC exactly if V[X] equals, or differs from, V[Y] (R112, R113). That they do so for
every low nibble is the spec's own decision D12 (R79, DESIGN CHOICE, log 14). -/
def Obligations.RegisterSkipsCompare : Prop :=
  ∀ (x y : Reg) (n : Nibble) (s : State),
    (∃ t, exec (.seReg x y n) s = .next t ∧ OnlyPc s t ∧
      t.pc = if s.getV x = s.getV y then s.pc + 2 else s.pc) ∧
    (∃ t, exec (.sneReg x y n) s = .next t ∧ OnlyPc s t ∧
      t.pc = if s.getV x = s.getV y then s.pc else s.pc + 2)

/-! ## Load and ALU -/

/-- 6XNN, 7XNN and 8XY0 write V[X] and nothing else; 7XNN wraps modulo 256 without a flag (R120, R121,
R122). -/
def Obligations.LoadsAndAddImmediateWriteVx : Prop :=
  ∀ (x y : Reg) (nn : Byte) (s : State),
    (∃ t, exec (.ldImm x nn) s = .next t ∧ t.getV x = nn ∧ OnlyReg s t x) ∧
    (∃ t, exec (.addImm x nn) s = .next t ∧
      (t.getV x).toNat = ((s.getV x).toNat + nn.toNat) % 256 ∧ OnlyReg s t x) ∧
    (∃ t, exec (.ldReg x y) s = .next t ∧ t.getV x = s.getV y ∧ OnlyReg s t x)

/-- 8XY1, 8XY2 and 8XY3 write the bitwise result to V[X] and nothing else; VF is left (R123 to R125). -/
def Obligations.LogicOperationsWriteVx : Prop :=
  ∀ (x y : Reg) (s : State),
    (∃ t, exec (.orReg x y) s = .next t ∧ OnlyReg s t x ∧
      ∀ k, (t.getV x).getLsbD k = ((s.getV x).getLsbD k || (s.getV y).getLsbD k)) ∧
    (∃ t, exec (.andReg x y) s = .next t ∧ OnlyReg s t x ∧
      ∀ k, (t.getV x).getLsbD k = ((s.getV x).getLsbD k && (s.getV y).getLsbD k)) ∧
    (∃ t, exec (.xorReg x y) s = .next t ∧ OnlyReg s t x ∧
      ∀ k, (t.getV x).getLsbD k = ((s.getV x).getLsbD k ^^ (s.getV y).getLsbD k))

/-- 8XY4: VF ends as the carry of the unwrapped sum; V[X] is the sum modulo 256 unless X is 15, where the sum
is lost (R126). -/
def Obligations.AddWritesSumThenCarry : Prop :=
  ∀ (x y : Reg) (s : State), ∃ t, exec (.addReg x y) s = .next t ∧ OnlyRegAndVF s t x ∧
    t.getV regVF = (if (s.getV x).toNat + (s.getV y).toNat > 255 then 0x01 else 0x00) ∧
    (x ≠ regVF → (t.getV x).toNat = ((s.getV x).toNat + (s.getV y).toNat) % 256)

/-- 8XY5: the flag is the strict comparison of the old values; the difference is taken from the registers as
the flag write left them (R127; the cases with VF as an operand are the spec's own decision D9, log 12). -/
def Obligations.SubtractWritesFlagThenDifference : Prop :=
  ∀ (x y : Reg) (s : State) (f : Byte),
    f = (if (s.getV x).toNat > (s.getV y).toNat then 0x01 else 0x00) →
    ∃ t, exec (.subReg x y) s = .next t ∧ OnlyRegAndVF s t x ∧
      (x ≠ regVF → t.getV regVF = f) ∧
      (x ≠ regVF → y ≠ regVF → t.getV x = s.getV x - s.getV y) ∧
      (x ≠ regVF → y = regVF → t.getV x = s.getV x - f) ∧
      (x = regVF → y ≠ regVF → t.getV regVF = f - s.getV y) ∧
      (x = regVF → y = regVF → t.getV regVF = 0x00)

/-- 8XY7: as 8XY5 with the operands exchanged (R129; the cases with VF as an operand are the spec's own
decision D9, log 12). -/
def Obligations.ReverseSubtractWritesFlagThenDifference : Prop :=
  ∀ (x y : Reg) (s : State) (f : Byte),
    f = (if (s.getV y).toNat > (s.getV x).toNat then 0x01 else 0x00) →
    ∃ t, exec (.subnReg x y) s = .next t ∧ OnlyRegAndVF s t x ∧
      (x ≠ regVF → t.getV regVF = f) ∧
      (x ≠ regVF → y ≠ regVF → t.getV x = s.getV y - s.getV x) ∧
      (x ≠ regVF → y = regVF → t.getV x = f - s.getV x) ∧
      (x = regVF → y ≠ regVF → t.getV regVF = s.getV y - f) ∧
      (x = regVF → y = regVF → t.getV regVF = 0x00)

/-- 8XY6 and 8XYE: VF gets the bit shifted out of V[X], then V[X] is shifted by one; with X = 15 the shift
applies to the flag, so VF ends 0x00 or twice the old bit 7. V[Y] plays no part (R128, R130; the case X = 15
is the spec's own decision D9, log 12). -/
def Obligations.ShiftsWriteBitOutThenShift : Prop :=
  ∀ (x y : Reg) (s : State),
    (∃ t, exec (.shr x y) s = .next t ∧ OnlyRegAndVF s t x ∧
      (x ≠ regVF → (t.getV regVF).toNat = (s.getV x).toNat % 2 ∧
        (t.getV x).toNat = (s.getV x).toNat / 2) ∧
      (x = regVF → t.getV regVF = 0x00)) ∧
    (∃ t, exec (.shl x y) s = .next t ∧ OnlyRegAndVF s t x ∧
      (x ≠ regVF → (t.getV regVF).toNat = (s.getV x).toNat / 128 ∧
        (t.getV x).toNat = (s.getV x).toNat * 2 % 256) ∧
      (x = regVF → (t.getV regVF).toNat = 2 * ((s.getV x).toNat / 128)))

/-- CXNN draws one random byte, whatever it is, and V[X] gets it ANDed with NN; so V[X] has no bit that NN
lacks (R131). The byte is the free value `Config.randomByte` (the spec's own decision D15, log 9). -/
def Obligations.RandomByteIsMasked : Prop :=
  ∀ (x : Reg) (nn : Byte) (s : State), ∃ (r : Byte) (t : State),
    exec (.rnd x nn) s = .next t ∧ r = Config.randomByte s.rndDraws ∧ t.getV x = r &&& nn ∧
    (∀ k, nn.getLsbD k = false → (t.getV x).getLsbD k = false) ∧
    (∀ q, q ≠ x → t.getV q = s.getV q) ∧ t.rndDraws = s.rndDraws + 1 ∧
    t = { s with v := t.v, rndDraws := t.rndDraws } ∧ SameBytes s t

/-! ## Index register and memory transfer -/

/-- ANNN, FX1E and FX29 write I and nothing else: NNN, the sum modulo 65536, the whole byte times 5 (R140,
R141, R142). -/
def Obligations.IndexRegisterWrites : Prop :=
  ∀ (nnn : Imm12) (x : Reg) (s : State),
    (∃ t, exec (.ldI nnn) s = .next t ∧ t.i.toNat = nnn.toNat ∧ OnlyI s t) ∧
    (∃ t, exec (.addI x) s = .next t ∧
      t.i.toNat = (s.i.toNat + (s.getV x).toNat) % 65536 ∧ OnlyI s t) ∧
    (∃ t, exec (.ldF x) s = .next t ∧ t.i.toNat = (s.getV x).toNat * 5 ∧ OnlyI s t)

/-- FX33 stores the three decimal digits of V[X] at I, I + 1, I + 2 and changes no other byte and nothing
else; the digits recombine to V[X]; beyond the end of memory it raises the fault (R143). The fault is the
spec's own decision D7 (log 16), what its entry records D6, that the font may be stored over D22 (log 17). -/
def Obligations.DecimalDigitsAreStored : Prop :=
  ∀ (x : Reg) (s : State), s.mem.wf = true →
    (s.i.toNat + 2 ≤ 0xFFF → ∃ t, exec (.ldB x) s = .next t ∧ OnlyBytes s t (s.dataAddr 0) 3 ∧
      (t.mem.read (s.dataAddr 0)).toNat = (s.getV x).toNat / 100 ∧
      (t.mem.read (s.dataAddr 1)).toNat = (s.getV x).toNat / 10 % 10 ∧
      (t.mem.read (s.dataAddr 2)).toNat = (s.getV x).toNat % 10 ∧
      100 * (t.mem.read (s.dataAddr 0)).toNat + 10 * (t.mem.read (s.dataAddr 1)).toNat +
        (t.mem.read (s.dataAddr 2)).toNat = (s.getV x).toNat) ∧
    (s.i.toNat + 2 > 0xFFF → exec (.ldB x) s = .next (faulted s .memOutOfRange))

/-- FX55 stores V0 to V[X] at I to I + X and changes no other byte and nothing else; beyond the end of memory
it raises the fault and stores nothing (R144). The fault is the spec's own decision D7 (log 16), what its
entry records D6, that the font may be stored over D22 (log 17). -/
def Obligations.RegisterBlockIsStored : Prop :=
  ∀ (x : Reg) (s : State), s.mem.wf = true →
    (s.i.toNat + x.val ≤ 0xFFF → ∃ t, exec (.storeRegs x) s = .next t ∧
      OnlyBytes s t (s.dataAddr 0) (x.val + 1) ∧
      ∀ k : Fin 16, k.val ≤ x.val → t.mem.read (s.dataAddr k.val) = s.getV k) ∧
    (s.i.toNat + x.val > 0xFFF → exec (.storeRegs x) s = .next (faulted s .memOutOfRange))

/-- FX65 loads V0 to V[X] from I to I + X and changes nothing else; beyond the end of memory it raises the
fault and loads nothing (R145). The fault is the spec's own decision D7 (log 16), what its entry records D6.
-/
def Obligations.RegisterBlockIsLoaded : Prop :=
  ∀ (x : Reg) (s : State),
    (s.i.toNat + x.val ≤ 0xFFF → ∃ t, exec (.loadRegs x) s = .next t ∧ OnlyRegs s t ∧
      (∀ k : Fin 16, k.val ≤ x.val → t.getV k = s.mem.read (s.dataAddr k.val)) ∧
      ∀ k : Fin 16, x.val < k.val → t.getV k = s.getV k) ∧
    (s.i.toNat + x.val > 0xFFF → exec (.loadRegs x) s = .next (faulted s .memOutOfRange))

/-- FX55 then FX65 with the same X and I reads back what was written: the state is as after the store, and
even if the registers change in between V0 to V[X] get their stored values (R146, which the spec derives). -/
def Obligations.LoadAfterStoreIsIdentity : Prop :=
  ∀ (x : Reg) (s : State), s.mem.wf = true → s.i.toNat + x.val ≤ 0xFFF →
    ∃ t, exec (.storeRegs x) s = .next t ∧ exec (.loadRegs x) t = .next t ∧
      ∀ clobbered : Vector Byte 16, ∃ u, exec (.loadRegs x) { t with v := clobbered } = .next u ∧
        ∀ k : Fin 16, k.val ≤ x.val → u.getV k = s.getV k

/-- MEM_OUT_OF_RANGE: FX33 when I + 2 > 0xFFF, FX55 and FX65 when I + X > 0xFFF, DXYN when N > 0 and I + N -
1 > 0xFFF, each before the instruction writes anything (R174; the spec's own decisions D7 and D11, log 16).
-/
def Obligations.DataAccessAboveMemoryFaults : Prop :=
  ∀ (x y : Reg) (n : Nibble) (s : State),
    (s.i.toNat + 2 > 0xFFF → exec (.ldB x) s = .next (faulted s .memOutOfRange)) ∧
    (s.i.toNat + x.val > 0xFFF → exec (.storeRegs x) s = .next (faulted s .memOutOfRange) ∧
      exec (.loadRegs x) s = .next (faulted s .memOutOfRange)) ∧
    (n.val > 0 → s.i.toNat + n.val - 1 > 0xFFF →
      exec (.drw x y n) s = .next (faulted s .memOutOfRange))

/-! ## Display -/

/-- 00E0 clears all cells and changes nothing else (R150). -/
def Obligations.ClearMakesAllCellsFalse : Prop :=
  ∀ s : State, ∃ t, exec .cls s = .next t ∧ (∀ r c, t.pixel r c = false) ∧
    t = { s with disp := t.disp } ∧ SameBytes s t

/-- DXYN cell by cell: every cell becomes itself XOR the sprite's bit there, VF is the OR of the collisions
over the cells on the screen, coordinates wrap at the start and the body clips, V[X] and V[Y] being read
before VF is reset; nothing else changes (R151, R152; that bit 7 is leftmost is general knowledge, D31, log
15; that the coordinates are read first is the spec's own decision D10, log 13). -/
def Obligations.DrawXorsSpriteCellByCell : Prop :=
  ∀ (x y : Reg) (n : Nibble) (s : State) (x0 y0 : Nat),
    (n.val = 0 ∨ s.i.toNat + n.val - 1 ≤ 0xFFF) →
    x0 = (s.getV x).toNat % 64 → y0 = (s.getV y).toNat % 32 →
    ∃ t, exec (.drw x y n) s = .next t ∧
      (∀ (r : Fin 32) (c : Fin 64),
        t.pixel r c = (s.pixel r c ^^ spriteBit s x0 y0 n.val r.val c.val)) ∧
      ((∃ (r : Fin 32) (c : Fin 64), s.pixel r c = true ∧
          spriteBit s x0 y0 n.val r.val c.val = true) → t.getV regVF = 0x01) ∧
      ((∀ (r : Fin 32) (c : Fin 64), s.pixel r c = true →
          spriteBit s x0 y0 n.val r.val c.val = false) → t.getV regVF = 0x00) ∧
      (∀ q, q ≠ regVF → t.getV q = s.getV q) ∧
      t = { s with v := t.v, disp := t.disp } ∧ SameBytes s t

/-- Drawing the same sprite twice at the same place restores the display, and the second draw reports a
collision exactly if the sprite has a 1 bit on a cell of the screen that was dark before the first (the
pseudocode of R151, and R152; a corner-case sentence of R151 says otherwise where all 1 bits land on lit
cells, log 32). The place is the same if V[X] and V[Y] are not VF; with VF as a coordinate, which the first
draw rewrites, it may be (D10, log 13). Which bit is which cell is general knowledge (D31, PRESUMED, log 15).
-/
def Obligations.DrawTwiceRestoresDisplay : Prop :=
  ∀ (x y : Reg) (n : Nibble) (s : State) (x0 y0 : Nat),
    (n.val = 0 ∨ s.i.toNat + n.val - 1 ≤ 0xFFF) →
    x0 = (s.getV x).toNat % 64 → y0 = (s.getV y).toNat % 32 →
    ∃ t, exec (.drw x y n) s = .next t ∧
      (x ≠ regVF → (t.getV x).toNat % 64 = x0) ∧ (y ≠ regVF → (t.getV y).toNat % 32 = y0) ∧
      ((t.getV x).toNat % 64 = x0 → (t.getV y).toNat % 32 = y0 →
        ∃ u, exec (.drw x y n) t = .next u ∧ u.disp = s.disp ∧
          ((∃ (r : Fin 32) (c : Fin 64), s.pixel r c = false ∧
              spriteBit s x0 y0 n.val r.val c.val = true) → u.getV regVF = 0x01) ∧
          ((∀ (r : Fin 32) (c : Fin 64), s.pixel r c = false →
              spriteBit s x0 y0 n.val r.val c.val = false) → u.getV regVF = 0x00))

/-! ## Keypad and timers -/

/-- EX9E and EXA1 add 2 to PC exactly if the key V[X] is down, or up; for V[X] above 15 they raise
KEY_INDEX_OUT_OF_RANGE (R160, R161, R175; that fault is the spec's own decision D8, log 16). -/
def Obligations.KeySkipsTestTheKey : Prop :=
  ∀ (x : Reg) (s : State),
    (∀ k : Fin 16, (s.getV x).toNat = k.val →
      (∃ t, exec (.skp x) s = .next t ∧ OnlyPc s t ∧
        t.pc = if s.key k = true then s.pc + 2 else s.pc) ∧
      (∃ t, exec (.sknp x) s = .next t ∧ OnlyPc s t ∧
        t.pc = if s.key k = true then s.pc else s.pc + 2)) ∧
    ((s.getV x).toNat > 15 → exec (.skp x) s = .next (faulted s .keyIndexOutOfRange) ∧
      exec (.sknp x) s = .next (faulted s .keyIndexOutOfRange))

/-- FX0A: with no key down only PC changes, back to the FX0A itself; with a key down V[X] gets the value of
the lowest key that is down (its index, or 0x01, by FX0A_STORES_INDEX; the spec's own decision D13, logs 3
and 26) and PC goes on (R162). -/
def Obligations.KeyWaitPollsKeypad : Prop :=
  ∀ (x : Reg) (s : State),
    ((∀ k, s.key k = false) →
      ∃ t, exec (.ldVxK x) s = .next t ∧ OnlyPc s t ∧ t.pc = s.pc - 2) ∧
    ∀ k : Fin 16, s.key k = true → (∀ j : Fin 16, j < k → s.key j = false) →
      ∃ t, exec (.ldVxK x) s = .next t ∧ OnlyReg s t x ∧
        (t.getV x).toNat = if s.config.fx0aStoresIndex then k.val else 1

/-- A step on an FX0A with no key down leaves PC on it: the next step executes it again (R162). -/
def Obligations.KeyWaitHoldsProgramCounter : Prop :=
  ∀ (s : State) (left : Nat) (x : Reg),
    s.runState = .running → s.faultCause = .none → s.phase = .batch (left + 1) →
    s.pc.toNat ≤ 0xFFE → ¬ ResetLands s → s.fetchWord = encodeXNN 0xF x 0x0A →
    (∀ k, s.key k = false) →
    step s = .next { s with phase := .batch left, event := .none }

/-- FX07, FX15 and FX18 move a byte between V[X] and a timer and change nothing else (R163, R164, R165). -/
def Obligations.TimerLoads : Prop :=
  ∀ (x : Reg) (s : State),
    (∃ t, exec (.ldVxDt x) s = .next t ∧ t.getV x = s.dt ∧ OnlyReg s t x) ∧
    (∃ t, exec (.ldDtVx x) s = .next t ∧ t.dt = s.getV x ∧ t = { s with dt := t.dt } ∧
      SameBytes s t) ∧
    (∃ t, exec (.ldStVx x) s = .next t ∧ t.st = s.getV x ∧ t = { s with st := t.st } ∧
      SameBytes s t)

/-! ## Faults, ticks, the session -/

/-- `raise Fault(cause)` writes `fault_cause`, `fault_pc` and `run_state`, emits the event, and does nothing
else (R177; the spec's own decision D6). -/
def Obligations.FaultEntryRecordsCauseAndPc : Prop :=
  ∀ (s : State) (cause : FaultCause),
    (s.raise cause).faultCause = cause ∧ (s.raise cause).faultPc = s.pc ∧
    (s.raise cause).runState = .quit ∧ (s.raise cause).event = .fault cause s.pc ∧
    s.raise cause = { s with
      faultCause := (s.raise cause).faultCause, faultPc := (s.raise cause).faultPc,
      runState := (s.raise cause).runState, event := (s.raise cause).event }

/-- Once the run state is QUIT or a fault is recorded, nothing but `reset` changes the state: a tick is
ignored, and with no delivery of the host no move is defined (R193; the spec's own decisions D20 and D27).
That the model then stops with `sessionEnded` is its own form of "no step is defined" (log 8). -/
def Obligations.EndedSessionIsFrozen : Prop :=
  ∀ s : State, (s.runState = .quit ∨ s.faultCause ≠ .none) →
    (s.inbox = [] → step s = .fault .sessionEnded) ∧
    ∀ (input : TickInput) (rest : List HostEvent), s.inbox = .tick input :: rest →
      step s = .next { s with inbox := rest, event := .none }

/-- The move that starts a tick: the key events in order, the last call for a key winning, then the run
request; with QUIT the session is over at once; otherwise a batch of IPT steps in RUNNING, of none in
STOPPED; nothing else changes (R186, R187, R192; the spec's own decisions D19 and D20). -/
def Obligations.TickStartsWithHostInput : Prop :=
  ∀ (s : State) (input : TickInput) (rest : List HostEvent),
    s.runState ≠ .quit → s.faultCause = .none → s.phase = .boundary →
    s.inbox = .tick input :: rest →
    ∃ t, step s = .next t ∧
      (∀ k, t.key k = (lastPress input.keyEvents k).getD (s.key k)) ∧
      t.runState = input.runRequest.getD s.runState ∧
      t.phase = (match t.runState with
        | .running => .batch s.config.ipt
        | .stopped => .batch 0
        | .quit => .boundary) ∧
      t = { s with
        keys := t.keys, runState := t.runState, phase := t.phase, inbox := rest, event := .none }

/-- With no delivery in `inbox`, a move at a tick boundary is that of a tick without events: the model's
choice (DESIGN CHOICE, log 7). -/
def Obligations.EmptyInboxIsATickWithoutEvents : Prop :=
  ∀ s : State, s.runState ≠ .quit → s.faultCause = .none → s.phase = .boundary → s.inbox = [] →
    step s = .next { s with
      event := .none
      phase := .batch (if s.runState = .running then s.config.ipt else 0) }

/-- The move that ends a tick: PC at or above 0x1000 raises PC_OUT_OF_RANGE, before anything is published
(R188, the spec's own decision D4); otherwise the display is published, cell (r, c) at position r * 64 + c of
the 2048 cells (R189; the event carries the grid, `Display.flat` is its list, log 31), and each timer counts
down by one, floored at 0 (R190); nothing else changes. All of it also in STOPPED, which is the spec's own
decision D19 (R192, log 20). Where a reset comes just there the tick does not end (log 21). -/
def Obligations.TickEndsWithCheckPublishAndTimers : Prop :=
  ∀ s : State, s.runState ≠ .quit → s.faultCause = .none → s.phase = .batch 0 →
    ¬ ResetLands s →
    (s.pc.toNat ≥ 0x1000 → step s = .next (faulted s .pcOutOfRange)) ∧
    (s.pc.toNat < 0x1000 → ∃ t, step s = .next t ∧ t.event = .display s.disp ∧
      (Display.flat s.disp).length = 2048 ∧
      (∀ (r : Fin 32) (c : Fin 64), (Display.flat s.disp)[r.val * 64 + c.val]? = some (s.pixel r c)) ∧
      t.dt.toNat = s.dt.toNat - 1 ∧ t.st.toNat = s.st.toNat - 1 ∧ t.phase = .boundary ∧
      t = { s with event := t.event, dt := t.dt, st := t.st, phase := t.phase })

/-- The machine, move by move (log 6), does what the tick sequence of R185 says: from a tick boundary, with a
tick delivered or none (a tick without events, log 7) and no reset that comes inside it (log 21), after at
most IPT + 2 moves it stands at the next boundary or the session is over, in the state that the whole tick
gives. The PC check's place and the STOPPED tick in it are the spec's own decisions D4 and D19 (logs 16 and
20). -/
def Obligations.MovesOfATickAreTheTickSequence : Prop :=
  ∀ (s : State) (input : TickInput) (rest : List HostEvent),
    s.runState ≠ .quit → s.faultCause = .none → s.phase = .boundary →
    (s.inbox = .tick input :: rest ∨ s.inbox = [] ∧ rest = [] ∧ input = TickInput.silent) →
    (∀ left config font rom later, left ≤ s.config.ipt →
      rest ≠ .reset (.batch left) config font rom :: later) →
    ∃ (n : Nat) (t : State), n ≤ s.config.ipt + 2 ∧
      Host.Core.run Sys2Proof.core n s = .next t ∧
      (t.ended = true ∨ t.phase = .boundary) ∧
      { t with phase := .boundary } = State.wholeTick { s with inbox := rest } input

/-- The configuration is constant for a session and QUIT is terminal: a move other than a reset keeps `IPT`
and `FX0A_STORES_INDEX`, and from QUIT it stays in QUIT (R184). -/
def Obligations.OnlyResetLeavesQuitOrChangesConfiguration : Prop :=
  ∀ s t : State, step s = .next t → ¬ ResetLands s →
    t.config = s.config ∧ (s.runState = .quit → t.runState = .quit)

/-- `Reset(ROM, L)` for every configuration, font and ROM: all registers zero, cells and keys false, PC
0x200, the font and the image byte for byte in a zeroed memory, RUNNING; a ROM that is empty, too long or
unreadable raises ROM_LOAD_FAILED with `fault_pc` 0x200 and copies nothing (R200; the zeros and the over-long
ROM are the spec's own decisions D16 and D17, log 1). A failed reset emits `fault_out` (R177, R33). The
model's own fields stand at a tick boundary, with the later deliveries, no draw, and no other event (DESIGN
CHOICES, logs 6, 7, 9, 10). -/
def Obligations.ResetBuildsTheState : Prop :=
  ∀ (config : SessionConfig) (font : Font) (rom : Rom) (inbox : List HostEvent) (t : State),
    t = State.resetWith config font rom inbox →
    (∀ r, t.getV r = 0) ∧ t.i = 0 ∧ t.pc = 0x0200 ∧ t.sp.val = 0 ∧
    (∀ k : Fin 12, t.stack[k.val] = 0) ∧ t.dt = 0 ∧ t.st = 0 ∧
    (∀ r c, t.pixel r c = false) ∧ (∀ k, t.key k = false) ∧ t.config = config ∧
    t.phase = .boundary ∧ t.inbox = inbox ∧ t.rndDraws = 0 ∧
    (∀ a : Fin 80, t.mem.read a.val = font[a.val]) ∧
    (∀ a, 0x050 ≤ a → a < 0x200 → t.mem.read a = 0) ∧
    ((∃ image, rom = .bytes image ∧ 1 ≤ image.length ∧ image.length ≤ 3584 ∧
        t.runState = .running ∧ t.faultCause = .none ∧ t.faultPc = 0 ∧ t.event = .none ∧
        (∀ k b, image[k]? = some b → t.mem.read (0x200 + k) = b) ∧
        (∀ a, 0x200 + image.length ≤ a → t.mem.read a = 0)) ∨
      ((rom = .unreadable ∨ ∃ image, rom = .bytes image ∧
          (image.length = 0 ∨ image.length > 3584)) ∧
        t.runState = .quit ∧ t.faultCause = .romLoadFailed ∧ t.faultPc = 0x0200 ∧
        t.event = .fault .romLoadFailed 0x0200 ∧
        (∀ a, 0x200 ≤ a → t.mem.read a = 0)))

/-- A reset starts a new session from the reset state, at any time (R212): between two ticks, after the end
of a session, and inside a tick at the place the host gives it, before any instruction of the batch or before
the tick's end; nothing of the old session survives. How a delivery names its place is the model's (log 21).
The count of draws of the free input `rnd`, which is the model's own field and no state of the CORE, goes on
(log 9). -/
def Obligations.ResetDeliveryStartsNewSession : Prop :=
  ∀ (s : State) (place : Phase) (config : SessionConfig) (font : Font) (rom : Rom)
    (rest : List HostEvent), s.inbox = .reset place config font rom :: rest →
    (s.ended = true ∨ s.phase = .boundary ∨ s.phase = place) →
    step s = .next { State.resetWith config font rom rest with rndDraws := s.rndDraws }

/-- The model's `State.reset` is the reset with the default font, a one-byte program image 0x00, and the
configuration `IPT = 1` (DESIGN CHOICE, log 2) and `FX0A_STORES_INDEX = false` (log 3). -/
def Obligations.ResetStateIsAReset : Prop :=
  State.reset =
    State.resetWith { ipt := 1, fx0aStoresIndex := false } Config.defaultFont (.bytes [0x00]) []

/-- A jump to its own address leaves everything but the batch count and the last event as it was (R211, which
the spec derives). -/
def Obligations.SelfJumpChangesNothing : Prop :=
  ∀ (s : State) (left : Nat) (nnn : Imm12),
    s.runState = .running → s.faultCause = .none → s.phase = .batch (left + 1) →
    s.pc.toNat ≤ 0xFFE → ¬ ResetLands s → nnn.toNat = s.pc.toNat → s.fetchWord = encodeNNN 0x1 nnn →
    step s = .next { s with phase := .batch left, event := .none }

/-- The host's placing of an opcode: the very next step runs exactly the instruction the decoder reads from it
(log 5). -/
def Obligations.PlacedWordIsTheNextInstruction : Prop :=
  ∀ (s : State) (w : Nat), s.mem.wf = true → s.pc.toNat ≤ 0xFFE → w < 65536 →
    ∃ i t, decodeTableWord 16 w = some i ∧ step (s.withFetchWord 16 w) = exec i t ∧
      t.pc = s.pc + 2 ∧ t.v = s.v ∧ t.i = s.i ∧ t.stack = s.stack ∧ t.sp = s.sp ∧ t.dt = s.dt ∧
      t.st = s.st ∧ t.disp = s.disp ∧ t.keys = s.keys ∧
      ∀ a, a ≠ s.pc.toNat → a ≠ s.pc.toNat + 1 → t.mem.read a = s.mem.read a

/-! ## The invariant -/

/-- Every reset state satisfies the invariant. -/
def Obligations.ResetSatisfiesInvariant : Prop :=
  Inv State.reset ∧
  ∀ (config : SessionConfig) (font : Font) (rom : Rom) (inbox : List HostEvent),
    Inv (State.resetWith config font rom inbox)

/-- Every move keeps the invariant: canonical memory, PC at most 0x10FE and at most 0xFFF at the start of a
tick, slots in use holding 0x002 to 0x1000, a fault meaning QUIT (R35, which the spec derives). -/
def Obligations.EveryMoveKeepsInvariant : Prop :=
  ∀ s t : State, Inv s → step s = .next t → Inv t

/-- From every state that satisfies the invariant and whose session is not over the machine has a next state.
Inside a tick, and at a tick boundary with a delivery of the host, that is the tick sequence's (R185) or a
reset's (R212). At a tick boundary with an empty `inbox` it is the model's choice that the host goes on ticking,
without events (DESIGN CHOICE, log 7): R211 lets a host stop delivering ticks. -/
def Obligations.LiveSessionAlwaysMoves : Prop :=
  ∀ s : State, Inv s → s.ended = false → ∃ t, step s = .next t
end

