-- ==== Sys2Proof/Laws/Decode.lean ====
section
/-! SUPPORT. The fields of the three encoding layouts (spec/30_encoding.md R71, R72), and the fields as
numbers. -/

namespace Sys2Proof

theorem fieldC_val (w : Word) : (fieldC w).val = w.toNat / 4096 := by
  have := w.isLt
  simp [fieldC, Nat.shiftRight_eq_div_pow]
  omega

theorem fieldX_val (w : Word) : (fieldX w).val = w.toNat / 256 % 16 := by
  simp [fieldX, Nat.shiftRight_eq_div_pow]

theorem fieldY_val (w : Word) : (fieldY w).val = w.toNat / 16 % 16 := by
  simp [fieldY, Nat.shiftRight_eq_div_pow]

theorem fieldN_val (w : Word) : (fieldN w).val = w.toNat % 16 := by
  simp [fieldN]

theorem fieldNN_toNat (w : Word) : (fieldNN w).toNat = w.toNat % 256 := by
  simp [fieldNN]

theorem fieldNNN_toNat (w : Word) : (fieldNNN w).toNat = w.toNat % 4096 := by
  simp [fieldNNN]

theorem encodeXYN_toNat (c : Nibble) (x y : Reg) (n : Nibble) :
    (encodeXYN c x y n).toNat = c.val * 4096 + x.val * 256 + y.val * 16 + n.val := by
  simp [encodeXYN]; omega

theorem encodeXNN_toNat (c : Nibble) (x : Reg) (nn : Byte) :
    (encodeXNN c x nn).toNat = c.val * 4096 + x.val * 256 + nn.toNat := by
  have := nn.isLt
  simp [encodeXNN]; omega

theorem encodeNNN_toNat (c : Nibble) (nnn : Imm12) :
    (encodeNNN c nnn).toNat = c.val * 4096 + nnn.toNat := by
  have := nnn.isLt
  simp [encodeNNN]; omega

@[simp] theorem fieldC_encodeXYN (c : Nibble) (x y : Reg) (n : Nibble) :
    fieldC (encodeXYN c x y n) = c := by
  ext; rw [fieldC_val, encodeXYN_toNat]; omega

@[simp] theorem fieldX_encodeXYN (c : Nibble) (x y : Reg) (n : Nibble) :
    fieldX (encodeXYN c x y n) = x := by
  ext; rw [fieldX_val, encodeXYN_toNat]; omega

@[simp] theorem fieldY_encodeXYN (c : Nibble) (x y : Reg) (n : Nibble) :
    fieldY (encodeXYN c x y n) = y := by
  ext; rw [fieldY_val, encodeXYN_toNat]; omega

@[simp] theorem fieldN_encodeXYN (c : Nibble) (x y : Reg) (n : Nibble) :
    fieldN (encodeXYN c x y n) = n := by
  ext; rw [fieldN_val, encodeXYN_toNat]; omega

@[simp] theorem fieldC_encodeXNN (c : Nibble) (x : Reg) (nn : Byte) :
    fieldC (encodeXNN c x nn) = c := by
  have := nn.isLt
  ext; rw [fieldC_val, encodeXNN_toNat]; omega

@[simp] theorem fieldX_encodeXNN (c : Nibble) (x : Reg) (nn : Byte) :
    fieldX (encodeXNN c x nn) = x := by
  have := nn.isLt
  ext; rw [fieldX_val, encodeXNN_toNat]; omega

@[simp] theorem fieldNN_encodeXNN (c : Nibble) (x : Reg) (nn : Byte) :
    fieldNN (encodeXNN c x nn) = nn := by
  have := nn.isLt
  apply BitVec.eq_of_toNat_eq; rw [fieldNN_toNat, encodeXNN_toNat]; omega

@[simp] theorem fieldC_encodeNNN (c : Nibble) (nnn : Imm12) : fieldC (encodeNNN c nnn) = c := by
  have := nnn.isLt
  ext; rw [fieldC_val, encodeNNN_toNat]; omega

@[simp] theorem fieldNNN_encodeNNN (c : Nibble) (nnn : Imm12) :
    fieldNNN (encodeNNN c nnn) = nnn := by
  have := nnn.isLt
  apply BitVec.eq_of_toNat_eq; rw [fieldNNN_toNat, encodeNNN_toNat]; omega

/-- The two bytes of an opcode give it back (R53). -/
@[simp] theorem wordOfBytes_highByte_lowByte (w : Word) :
    wordOfBytes (highByte w) (lowByte w) = w := by
  have := w.isLt
  apply BitVec.eq_of_toNat_eq
  simp [wordOfBytes, highByte, lowByte, Nat.shiftRight_eq_div_pow]
  omega

/-- A row's mask and pattern as a condition. -/
theorem TableRow.selects_iff (r : TableRow) (w : Word) :
    r.selects w = true ↔ w &&& r.mask = r.pattern := by
  simp [TableRow.selects]

/-- Masking with 0xF000 keeps the category. -/
theorem and_F000 (w : Word) : w &&& 0xF000 = BitVec.ofNat 16 ((fieldC w).val * 4096) := by
  have h : w &&& (0xF000 : Word) = (w >>> 12) <<< 12 := by
    ext k hk
    simp only [BitVec.getElem_and, BitVec.getElem_shiftLeft]
    interval_cases k <;> simp
  rw [h, fieldC_val]
  have := w.isLt
  apply BitVec.eq_of_toNat_eq
  simp [Nat.shiftLeft_eq, Nat.shiftRight_eq_div_pow]

/-- Masking with 0x00FF keeps the low byte. -/
theorem and_00FF (w : Word) : w &&& 0x00FF = BitVec.ofNat 16 (fieldNN w).toNat := by
  have h : w &&& 0x00FF = (w.setWidth 8).setWidth 16 := by
    ext k hk
    simp only [BitVec.getElem_and, BitVec.getElem_setWidth]
    interval_cases k <;> simp
  rw [h, fieldNN_toNat]
  apply BitVec.eq_of_toNat_eq
  simp

/-- Masking with 0x000F keeps the low nibble. -/
theorem and_000F (w : Word) : w &&& 0x000F = BitVec.ofNat 16 (fieldN w).val := by
  have h : w &&& 0x000F = (w.setWidth 4).setWidth 16 := by
    ext k hk
    simp only [BitVec.getElem_and, BitVec.getElem_setWidth]
    interval_cases k <;> simp
  rw [h, fieldN_val]
  apply BitVec.eq_of_toNat_eq
  simp

end Sys2Proof
end

