-- ==== Sys2Proof/Laws/Memory.lean ====
section
/-! SUPPORT. The laws of memory: every operation keeps the canonical form, and what a read gives after a
store (spec/20_memory.md R57, R59). -/

namespace Sys2Proof.Machine

theorem Memory.wfFrom_mono {lo lo' : Nat} (h : lo ≤ lo') :
    ∀ m : Memory, Memory.wfFrom lo' m = true → Memory.wfFrom lo m = true
  | [], _ => rfl
  | (k, b) :: rest, hm => by
    simp only [Memory.wfFrom, Bool.and_eq_true, decide_eq_true_eq] at hm ⊢
    exact ⟨⟨⟨by omega, hm.1.1.2⟩, hm.1.2⟩, hm.2⟩

/-- Addresses below the first listed one read as the background. -/
theorem Memory.read_of_lt :
    ∀ (m : Memory) (lo a : Nat), Memory.wfFrom lo m = true → a < lo → m.read a = Memory.background a
  | [], _, _, _, _ => rfl
  | (k, b) :: rest, lo, a, hm, ha => by
    simp only [Memory.wfFrom, Bool.and_eq_true, decide_eq_true_eq] at hm
    have hk : k ≠ a := by omega
    simp only [Memory.read, hk, if_false]
    exact Memory.read_of_lt rest (k + 1) a hm.2 (by omega)

theorem Memory.read_cellOf (a : Nat) (b : Byte) (rest : Memory)
    (h : rest.read a = Memory.background a) : Memory.read (Memory.cellOf a b ++ rest) a = b := by
  unfold Memory.cellOf
  split
  · next hb => simpa [hb] using h
  · simp [Memory.read]

theorem Memory.read_cellOf_of_ne (a a' : Nat) (b : Byte) (rest : Memory) (h : a' ≠ a) :
    Memory.read (Memory.cellOf a b ++ rest) a' = rest.read a' := by
  unfold Memory.cellOf
  split <;> simp [Memory.read, Ne.symm h]

theorem Memory.wfFrom_cellOf (lo a : Nat) (b : Byte) (rest : Memory) (hlo : lo ≤ a) (ha : a < 4096)
    (h : Memory.wfFrom (a + 1) rest = true) : Memory.wfFrom lo (Memory.cellOf a b ++ rest) = true := by
  unfold Memory.cellOf
  split
  · exact Memory.wfFrom_mono (by omega) _ h
  · next hb => simp [Memory.wfFrom, hlo, ha, hb, h]

theorem Memory.put_wfFrom (a : Nat) (b : Byte) (ha : a < 4096) :
    ∀ (m : Memory) (lo : Nat), lo ≤ a → Memory.wfFrom lo m = true →
      Memory.wfFrom lo (m.put a b) = true
  | [], lo, hlo, _ => by
    have := Memory.wfFrom_cellOf lo a b [] hlo ha rfl
    simpa [Memory.put] using this
  | (k, c) :: rest, lo, hlo, hm => by
    have hm' := hm
    simp only [Memory.wfFrom, Bool.and_eq_true, decide_eq_true_eq] at hm'
    obtain ⟨⟨⟨h1, h2⟩, h3⟩, h4⟩ := hm'
    unfold Memory.put
    split
    · next hak =>
      refine Memory.wfFrom_cellOf lo a b _ hlo ha ?_
      simp [Memory.wfFrom, h2, h3, h4]
      omega
    · split
      · next heq => subst heq; exact Memory.wfFrom_cellOf lo a b _ hlo ha h4
      · have := Memory.put_wfFrom a b ha rest (k + 1) (by omega) h4
        simp [Memory.wfFrom, h1, h2, h3, this]

/-- Storing a byte keeps the canonical form. -/
theorem Memory.write_wf (m : Memory) (a : Nat) (b : Byte) (h : m.wf = true) :
    (m.write a b).wf = true := by
  unfold Memory.write
  split
  · next ha => exact Memory.put_wfFrom a b ha m 0 (by omega) h
  · exact h

/-- Storing bytes keeps the canonical form. -/
theorem Memory.writeBytes_wf :
    ∀ (bs : List Byte) (m : Memory) (a : Nat), m.wf = true → (m.writeBytes a bs).wf = true
  | [], _, _, h => h
  | b :: rest, m, a, h => Memory.writeBytes_wf rest (m.write a b) (a + 1) (Memory.write_wf m a b h)

/-- Reset memory is in canonical form. -/
theorem Memory.reset_wf : State.reset.mem.wf = true := rfl

theorem Memory.read_put_of_ne (a a' : Nat) (b : Byte) (h : a' ≠ a) :
    ∀ m : Memory, (m.put a b).read a' = m.read a'
  | [] => by simpa [Memory.put] using Memory.read_cellOf_of_ne a a' b [] h
  | (k, c) :: rest => by
    unfold Memory.put
    split
    · exact Memory.read_cellOf_of_ne a a' b _ h
    · split
      · next heq => subst heq; rw [Memory.read_cellOf_of_ne a a' b rest h]; simp [Memory.read, Ne.symm h]
      · simp [Memory.read, Memory.read_put_of_ne a a' b h rest]

theorem Memory.read_put_same (a : Nat) (b : Byte) :
    ∀ (m : Memory) (lo : Nat), Memory.wfFrom lo m = true → (m.put a b).read a = b
  | [], _, _ => by simpa [Memory.put] using Memory.read_cellOf a b [] rfl
  | (k, c) :: rest, lo, hm => by
    have hm' := hm
    simp only [Memory.wfFrom, Bool.and_eq_true, decide_eq_true_eq] at hm'
    unfold Memory.put
    split
    · next hak =>
      exact Memory.read_cellOf a b _ (Memory.read_of_lt _ k a (by simp [Memory.wfFrom, hm'.1.1.2, hm'.1.2, hm'.2]) hak)
    · split
      · next heq =>
        subst heq
        exact Memory.read_cellOf a b _ (Memory.read_of_lt rest (a + 1) a hm'.2 (by omega))
      · next h1 h2 =>
        have : k ≠ a := fun h => h2 h.symm
        simp [Memory.read, this, Memory.read_put_same a b rest (k + 1) hm'.2]

/-- A store leaves every other address alone. -/
theorem Memory.read_write_of_ne (m : Memory) (a a' : Nat) (b : Byte) (h : a' ≠ a) :
    (m.write a b).read a' = m.read a' := by
  unfold Memory.write
  split
  · exact Memory.read_put_of_ne a a' b h m
  · rfl

/-- A read of the address just stored to gives the byte stored. -/
theorem Memory.read_write_same (m : Memory) (a : Nat) (b : Byte) (hm : m.wf = true) (ha : a < 4096) :
    (m.write a b).read a = b := by
  simp only [Memory.write, Config.memSize, ha, if_true]
  exact Memory.read_put_same a b m 0 hm

/-- Stores of a block leave every address outside it alone. -/
theorem Memory.read_writeBytes_outside :
    ∀ (bs : List Byte) (m : Memory) (a c : Nat), (c < a ∨ a + bs.length ≤ c) →
      (m.writeBytes a bs).read c = m.read c
  | [], _, _, _, _ => rfl
  | b :: rest, m, a, c, h => by
    simp only [List.length_cons] at h
    have := Memory.read_writeBytes_outside rest (m.write a b) (a + 1) c (by omega)
    simp only [Memory.writeBytes, this]
    exact Memory.read_write_of_ne m a c b (by omega)

/-- Stores of a block that lies in memory are read back byte by byte. -/
theorem Memory.read_writeBytes_inside :
    ∀ (bs : List Byte) (m : Memory) (a k : Nat) (b : Byte), m.wf = true → a + bs.length ≤ 4096 →
      bs[k]? = some b → (m.writeBytes a bs).read (a + k) = b
  | [], _, _, _, _, _, _, h => by simp at h
  | c :: rest, m, a, 0, b, hm, hl, h => by
    simp only [List.length_cons] at hl
    have hb : c = b := by simpa using h
    simp only [Memory.writeBytes, Nat.add_zero]
    rw [Memory.read_writeBytes_outside rest _ (a + 1) a (by omega), hb]
    exact Memory.read_write_same m a b hm (by omega)
  | c :: rest, m, a, k + 1, b, hm, hl, h => by
    simp only [List.length_cons] at hl
    have := Memory.read_writeBytes_inside rest (m.write a c) (a + 1) k b
      (Memory.write_wf m a c hm) (by omega) (by simpa using h)
    simpa [Memory.writeBytes, Nat.add_assoc, Nat.add_comm 1 k] using this

end Sys2Proof.Machine
end

