-- ==== Sys2Proof/Laws/State.lean ====
section
/-! SUPPORT. One lemma per field per named update of State, each true by `rfl`, so that no proof unfolds an
update; then reads after writes of registers, cells and keys. -/

namespace Sys2Proof.Machine

/-! ## setV -/

@[simp] theorem State.setV_mem (s : State) (r : Reg) (b : Byte) : (s.setV r b).mem = s.mem := rfl

@[simp] theorem State.setV_v (s : State) (r : Reg) (b : Byte) : (s.setV r b).v = s.v.set r.val b := rfl

@[simp] theorem State.setV_i (s : State) (r : Reg) (b : Byte) : (s.setV r b).i = s.i := rfl

@[simp] theorem State.setV_pc (s : State) (r : Reg) (b : Byte) : (s.setV r b).pc = s.pc := rfl

@[simp] theorem State.setV_stack (s : State) (r : Reg) (b : Byte) : (s.setV r b).stack = s.stack := rfl

@[simp] theorem State.setV_sp (s : State) (r : Reg) (b : Byte) : (s.setV r b).sp = s.sp := rfl

@[simp] theorem State.setV_dt (s : State) (r : Reg) (b : Byte) : (s.setV r b).dt = s.dt := rfl

@[simp] theorem State.setV_st (s : State) (r : Reg) (b : Byte) : (s.setV r b).st = s.st := rfl

@[simp] theorem State.setV_disp (s : State) (r : Reg) (b : Byte) : (s.setV r b).disp = s.disp := rfl

@[simp] theorem State.setV_keys (s : State) (r : Reg) (b : Byte) : (s.setV r b).keys = s.keys := rfl

@[simp] theorem State.setV_runState (s : State) (r : Reg) (b : Byte) : (s.setV r b).runState = s.runState := rfl

@[simp] theorem State.setV_faultCause (s : State) (r : Reg) (b : Byte) : (s.setV r b).faultCause = s.faultCause := rfl

@[simp] theorem State.setV_faultPc (s : State) (r : Reg) (b : Byte) : (s.setV r b).faultPc = s.faultPc := rfl

@[simp] theorem State.setV_config (s : State) (r : Reg) (b : Byte) : (s.setV r b).config = s.config := rfl

@[simp] theorem State.setV_phase (s : State) (r : Reg) (b : Byte) : (s.setV r b).phase = s.phase := rfl

@[simp] theorem State.setV_inbox (s : State) (r : Reg) (b : Byte) : (s.setV r b).inbox = s.inbox := rfl

@[simp] theorem State.setV_rndDraws (s : State) (r : Reg) (b : Byte) : (s.setV r b).rndDraws = s.rndDraws := rfl

@[simp] theorem State.setV_event (s : State) (r : Reg) (b : Byte) : (s.setV r b).event = s.event := rfl

/-! ## setVF -/

@[simp] theorem State.setVF_mem (s : State) (b : Byte) : (s.setVF b).mem = s.mem := rfl

@[simp] theorem State.setVF_v (s : State) (b : Byte) : (s.setVF b).v = s.v.set regVF.val b := rfl

@[simp] theorem State.setVF_i (s : State) (b : Byte) : (s.setVF b).i = s.i := rfl

@[simp] theorem State.setVF_pc (s : State) (b : Byte) : (s.setVF b).pc = s.pc := rfl

@[simp] theorem State.setVF_stack (s : State) (b : Byte) : (s.setVF b).stack = s.stack := rfl

@[simp] theorem State.setVF_sp (s : State) (b : Byte) : (s.setVF b).sp = s.sp := rfl

@[simp] theorem State.setVF_dt (s : State) (b : Byte) : (s.setVF b).dt = s.dt := rfl

@[simp] theorem State.setVF_st (s : State) (b : Byte) : (s.setVF b).st = s.st := rfl

@[simp] theorem State.setVF_disp (s : State) (b : Byte) : (s.setVF b).disp = s.disp := rfl

@[simp] theorem State.setVF_keys (s : State) (b : Byte) : (s.setVF b).keys = s.keys := rfl

@[simp] theorem State.setVF_runState (s : State) (b : Byte) : (s.setVF b).runState = s.runState := rfl

@[simp] theorem State.setVF_faultCause (s : State) (b : Byte) : (s.setVF b).faultCause = s.faultCause := rfl

@[simp] theorem State.setVF_faultPc (s : State) (b : Byte) : (s.setVF b).faultPc = s.faultPc := rfl

@[simp] theorem State.setVF_config (s : State) (b : Byte) : (s.setVF b).config = s.config := rfl

@[simp] theorem State.setVF_phase (s : State) (b : Byte) : (s.setVF b).phase = s.phase := rfl

@[simp] theorem State.setVF_inbox (s : State) (b : Byte) : (s.setVF b).inbox = s.inbox := rfl

@[simp] theorem State.setVF_rndDraws (s : State) (b : Byte) : (s.setVF b).rndDraws = s.rndDraws := rfl

@[simp] theorem State.setVF_event (s : State) (b : Byte) : (s.setVF b).event = s.event := rfl

/-! ## setPc -/

@[simp] theorem State.setPc_mem (s : State) (a : Word) : (s.setPc a).mem = s.mem := rfl

@[simp] theorem State.setPc_v (s : State) (a : Word) : (s.setPc a).v = s.v := rfl

@[simp] theorem State.setPc_i (s : State) (a : Word) : (s.setPc a).i = s.i := rfl

@[simp] theorem State.setPc_pc (s : State) (a : Word) : (s.setPc a).pc = a := rfl

@[simp] theorem State.setPc_stack (s : State) (a : Word) : (s.setPc a).stack = s.stack := rfl

@[simp] theorem State.setPc_sp (s : State) (a : Word) : (s.setPc a).sp = s.sp := rfl

@[simp] theorem State.setPc_dt (s : State) (a : Word) : (s.setPc a).dt = s.dt := rfl

@[simp] theorem State.setPc_st (s : State) (a : Word) : (s.setPc a).st = s.st := rfl

@[simp] theorem State.setPc_disp (s : State) (a : Word) : (s.setPc a).disp = s.disp := rfl

@[simp] theorem State.setPc_keys (s : State) (a : Word) : (s.setPc a).keys = s.keys := rfl

@[simp] theorem State.setPc_runState (s : State) (a : Word) : (s.setPc a).runState = s.runState := rfl

@[simp] theorem State.setPc_faultCause (s : State) (a : Word) : (s.setPc a).faultCause = s.faultCause := rfl

@[simp] theorem State.setPc_faultPc (s : State) (a : Word) : (s.setPc a).faultPc = s.faultPc := rfl

@[simp] theorem State.setPc_config (s : State) (a : Word) : (s.setPc a).config = s.config := rfl

@[simp] theorem State.setPc_phase (s : State) (a : Word) : (s.setPc a).phase = s.phase := rfl

@[simp] theorem State.setPc_inbox (s : State) (a : Word) : (s.setPc a).inbox = s.inbox := rfl

@[simp] theorem State.setPc_rndDraws (s : State) (a : Word) : (s.setPc a).rndDraws = s.rndDraws := rfl

@[simp] theorem State.setPc_event (s : State) (a : Word) : (s.setPc a).event = s.event := rfl

/-! ## setI -/

@[simp] theorem State.setI_mem (s : State) (a : Word) : (s.setI a).mem = s.mem := rfl

@[simp] theorem State.setI_v (s : State) (a : Word) : (s.setI a).v = s.v := rfl

@[simp] theorem State.setI_i (s : State) (a : Word) : (s.setI a).i = a := rfl

@[simp] theorem State.setI_pc (s : State) (a : Word) : (s.setI a).pc = s.pc := rfl

@[simp] theorem State.setI_stack (s : State) (a : Word) : (s.setI a).stack = s.stack := rfl

@[simp] theorem State.setI_sp (s : State) (a : Word) : (s.setI a).sp = s.sp := rfl

@[simp] theorem State.setI_dt (s : State) (a : Word) : (s.setI a).dt = s.dt := rfl

@[simp] theorem State.setI_st (s : State) (a : Word) : (s.setI a).st = s.st := rfl

@[simp] theorem State.setI_disp (s : State) (a : Word) : (s.setI a).disp = s.disp := rfl

@[simp] theorem State.setI_keys (s : State) (a : Word) : (s.setI a).keys = s.keys := rfl

@[simp] theorem State.setI_runState (s : State) (a : Word) : (s.setI a).runState = s.runState := rfl

@[simp] theorem State.setI_faultCause (s : State) (a : Word) : (s.setI a).faultCause = s.faultCause := rfl

@[simp] theorem State.setI_faultPc (s : State) (a : Word) : (s.setI a).faultPc = s.faultPc := rfl

@[simp] theorem State.setI_config (s : State) (a : Word) : (s.setI a).config = s.config := rfl

@[simp] theorem State.setI_phase (s : State) (a : Word) : (s.setI a).phase = s.phase := rfl

@[simp] theorem State.setI_inbox (s : State) (a : Word) : (s.setI a).inbox = s.inbox := rfl

@[simp] theorem State.setI_rndDraws (s : State) (a : Word) : (s.setI a).rndDraws = s.rndDraws := rfl

@[simp] theorem State.setI_event (s : State) (a : Word) : (s.setI a).event = s.event := rfl

/-! ## push -/

@[simp] theorem State.push_mem (s : State) (a : Word) (h : s.sp.val < 12) : (s.push a h).mem = s.mem := rfl

@[simp] theorem State.push_v (s : State) (a : Word) (h : s.sp.val < 12) : (s.push a h).v = s.v := rfl

@[simp] theorem State.push_i (s : State) (a : Word) (h : s.sp.val < 12) : (s.push a h).i = s.i := rfl

@[simp] theorem State.push_pc (s : State) (a : Word) (h : s.sp.val < 12) : (s.push a h).pc = s.pc := rfl

@[simp] theorem State.push_stack (s : State) (a : Word) (h : s.sp.val < 12) : (s.push a h).stack = s.stack.set s.sp.val a := rfl

@[simp] theorem State.push_sp (s : State) (a : Word) (h : s.sp.val < 12) : (s.push a h).sp = ⟨s.sp.val + 1, by omega⟩ := rfl

@[simp] theorem State.push_dt (s : State) (a : Word) (h : s.sp.val < 12) : (s.push a h).dt = s.dt := rfl

@[simp] theorem State.push_st (s : State) (a : Word) (h : s.sp.val < 12) : (s.push a h).st = s.st := rfl

@[simp] theorem State.push_disp (s : State) (a : Word) (h : s.sp.val < 12) : (s.push a h).disp = s.disp := rfl

@[simp] theorem State.push_keys (s : State) (a : Word) (h : s.sp.val < 12) : (s.push a h).keys = s.keys := rfl

@[simp] theorem State.push_runState (s : State) (a : Word) (h : s.sp.val < 12) : (s.push a h).runState = s.runState := rfl

@[simp] theorem State.push_faultCause (s : State) (a : Word) (h : s.sp.val < 12) : (s.push a h).faultCause = s.faultCause := rfl

@[simp] theorem State.push_faultPc (s : State) (a : Word) (h : s.sp.val < 12) : (s.push a h).faultPc = s.faultPc := rfl

@[simp] theorem State.push_config (s : State) (a : Word) (h : s.sp.val < 12) : (s.push a h).config = s.config := rfl

@[simp] theorem State.push_phase (s : State) (a : Word) (h : s.sp.val < 12) : (s.push a h).phase = s.phase := rfl

@[simp] theorem State.push_inbox (s : State) (a : Word) (h : s.sp.val < 12) : (s.push a h).inbox = s.inbox := rfl

@[simp] theorem State.push_rndDraws (s : State) (a : Word) (h : s.sp.val < 12) : (s.push a h).rndDraws = s.rndDraws := rfl

@[simp] theorem State.push_event (s : State) (a : Word) (h : s.sp.val < 12) : (s.push a h).event = s.event := rfl

/-! ## popPc -/

@[simp] theorem State.popPc_mem (s : State) (h : s.sp.val ≠ 0) : (s.popPc h).mem = s.mem := rfl

@[simp] theorem State.popPc_v (s : State) (h : s.sp.val ≠ 0) : (s.popPc h).v = s.v := rfl

@[simp] theorem State.popPc_i (s : State) (h : s.sp.val ≠ 0) : (s.popPc h).i = s.i := rfl

@[simp] theorem State.popPc_pc (s : State) (h : s.sp.val ≠ 0) : (s.popPc h).pc = s.stack[s.sp.val - 1]'(by omega) := rfl

@[simp] theorem State.popPc_stack (s : State) (h : s.sp.val ≠ 0) : (s.popPc h).stack = s.stack := rfl

@[simp] theorem State.popPc_sp (s : State) (h : s.sp.val ≠ 0) : (s.popPc h).sp = ⟨s.sp.val - 1, by omega⟩ := rfl

@[simp] theorem State.popPc_dt (s : State) (h : s.sp.val ≠ 0) : (s.popPc h).dt = s.dt := rfl

@[simp] theorem State.popPc_st (s : State) (h : s.sp.val ≠ 0) : (s.popPc h).st = s.st := rfl

@[simp] theorem State.popPc_disp (s : State) (h : s.sp.val ≠ 0) : (s.popPc h).disp = s.disp := rfl

@[simp] theorem State.popPc_keys (s : State) (h : s.sp.val ≠ 0) : (s.popPc h).keys = s.keys := rfl

@[simp] theorem State.popPc_runState (s : State) (h : s.sp.val ≠ 0) : (s.popPc h).runState = s.runState := rfl

@[simp] theorem State.popPc_faultCause (s : State) (h : s.sp.val ≠ 0) : (s.popPc h).faultCause = s.faultCause := rfl

@[simp] theorem State.popPc_faultPc (s : State) (h : s.sp.val ≠ 0) : (s.popPc h).faultPc = s.faultPc := rfl

@[simp] theorem State.popPc_config (s : State) (h : s.sp.val ≠ 0) : (s.popPc h).config = s.config := rfl

@[simp] theorem State.popPc_phase (s : State) (h : s.sp.val ≠ 0) : (s.popPc h).phase = s.phase := rfl

@[simp] theorem State.popPc_inbox (s : State) (h : s.sp.val ≠ 0) : (s.popPc h).inbox = s.inbox := rfl

@[simp] theorem State.popPc_rndDraws (s : State) (h : s.sp.val ≠ 0) : (s.popPc h).rndDraws = s.rndDraws := rfl

@[simp] theorem State.popPc_event (s : State) (h : s.sp.val ≠ 0) : (s.popPc h).event = s.event := rfl

/-! ## setPixel -/

@[simp] theorem State.setPixel_mem (s : State) (r : Fin 32) (c : Fin 64) (b : Bool) : (s.setPixel r c b).mem = s.mem := rfl

@[simp] theorem State.setPixel_v (s : State) (r : Fin 32) (c : Fin 64) (b : Bool) : (s.setPixel r c b).v = s.v := rfl

@[simp] theorem State.setPixel_i (s : State) (r : Fin 32) (c : Fin 64) (b : Bool) : (s.setPixel r c b).i = s.i := rfl

@[simp] theorem State.setPixel_pc (s : State) (r : Fin 32) (c : Fin 64) (b : Bool) : (s.setPixel r c b).pc = s.pc := rfl

@[simp] theorem State.setPixel_stack (s : State) (r : Fin 32) (c : Fin 64) (b : Bool) : (s.setPixel r c b).stack = s.stack := rfl

@[simp] theorem State.setPixel_sp (s : State) (r : Fin 32) (c : Fin 64) (b : Bool) : (s.setPixel r c b).sp = s.sp := rfl

@[simp] theorem State.setPixel_dt (s : State) (r : Fin 32) (c : Fin 64) (b : Bool) : (s.setPixel r c b).dt = s.dt := rfl

@[simp] theorem State.setPixel_st (s : State) (r : Fin 32) (c : Fin 64) (b : Bool) : (s.setPixel r c b).st = s.st := rfl

@[simp] theorem State.setPixel_disp (s : State) (r : Fin 32) (c : Fin 64) (b : Bool) : (s.setPixel r c b).disp = s.disp.set r.val (s.disp[r.val].set c.val b) := rfl

@[simp] theorem State.setPixel_keys (s : State) (r : Fin 32) (c : Fin 64) (b : Bool) : (s.setPixel r c b).keys = s.keys := rfl

@[simp] theorem State.setPixel_runState (s : State) (r : Fin 32) (c : Fin 64) (b : Bool) : (s.setPixel r c b).runState = s.runState := rfl

@[simp] theorem State.setPixel_faultCause (s : State) (r : Fin 32) (c : Fin 64) (b : Bool) : (s.setPixel r c b).faultCause = s.faultCause := rfl

@[simp] theorem State.setPixel_faultPc (s : State) (r : Fin 32) (c : Fin 64) (b : Bool) : (s.setPixel r c b).faultPc = s.faultPc := rfl

@[simp] theorem State.setPixel_config (s : State) (r : Fin 32) (c : Fin 64) (b : Bool) : (s.setPixel r c b).config = s.config := rfl

@[simp] theorem State.setPixel_phase (s : State) (r : Fin 32) (c : Fin 64) (b : Bool) : (s.setPixel r c b).phase = s.phase := rfl

@[simp] theorem State.setPixel_inbox (s : State) (r : Fin 32) (c : Fin 64) (b : Bool) : (s.setPixel r c b).inbox = s.inbox := rfl

@[simp] theorem State.setPixel_rndDraws (s : State) (r : Fin 32) (c : Fin 64) (b : Bool) : (s.setPixel r c b).rndDraws = s.rndDraws := rfl

@[simp] theorem State.setPixel_event (s : State) (r : Fin 32) (c : Fin 64) (b : Bool) : (s.setPixel r c b).event = s.event := rfl

/-! ## setKey -/

@[simp] theorem State.setKey_mem (s : State) (k : Fin 16) (b : Bool) : (s.setKey k b).mem = s.mem := rfl

@[simp] theorem State.setKey_v (s : State) (k : Fin 16) (b : Bool) : (s.setKey k b).v = s.v := rfl

@[simp] theorem State.setKey_i (s : State) (k : Fin 16) (b : Bool) : (s.setKey k b).i = s.i := rfl

@[simp] theorem State.setKey_pc (s : State) (k : Fin 16) (b : Bool) : (s.setKey k b).pc = s.pc := rfl

@[simp] theorem State.setKey_stack (s : State) (k : Fin 16) (b : Bool) : (s.setKey k b).stack = s.stack := rfl

@[simp] theorem State.setKey_sp (s : State) (k : Fin 16) (b : Bool) : (s.setKey k b).sp = s.sp := rfl

@[simp] theorem State.setKey_dt (s : State) (k : Fin 16) (b : Bool) : (s.setKey k b).dt = s.dt := rfl

@[simp] theorem State.setKey_st (s : State) (k : Fin 16) (b : Bool) : (s.setKey k b).st = s.st := rfl

@[simp] theorem State.setKey_disp (s : State) (k : Fin 16) (b : Bool) : (s.setKey k b).disp = s.disp := rfl

@[simp] theorem State.setKey_keys (s : State) (k : Fin 16) (b : Bool) : (s.setKey k b).keys = s.keys.set k.val b := rfl

@[simp] theorem State.setKey_runState (s : State) (k : Fin 16) (b : Bool) : (s.setKey k b).runState = s.runState := rfl

@[simp] theorem State.setKey_faultCause (s : State) (k : Fin 16) (b : Bool) : (s.setKey k b).faultCause = s.faultCause := rfl

@[simp] theorem State.setKey_faultPc (s : State) (k : Fin 16) (b : Bool) : (s.setKey k b).faultPc = s.faultPc := rfl

@[simp] theorem State.setKey_config (s : State) (k : Fin 16) (b : Bool) : (s.setKey k b).config = s.config := rfl

@[simp] theorem State.setKey_phase (s : State) (k : Fin 16) (b : Bool) : (s.setKey k b).phase = s.phase := rfl

@[simp] theorem State.setKey_inbox (s : State) (k : Fin 16) (b : Bool) : (s.setKey k b).inbox = s.inbox := rfl

@[simp] theorem State.setKey_rndDraws (s : State) (k : Fin 16) (b : Bool) : (s.setKey k b).rndDraws = s.rndDraws := rfl

@[simp] theorem State.setKey_event (s : State) (k : Fin 16) (b : Bool) : (s.setKey k b).event = s.event := rfl

/-! ## emit -/

@[simp] theorem State.emit_mem (s : State) (e : Event) : (s.emit e).mem = s.mem := rfl

@[simp] theorem State.emit_v (s : State) (e : Event) : (s.emit e).v = s.v := rfl

@[simp] theorem State.emit_i (s : State) (e : Event) : (s.emit e).i = s.i := rfl

@[simp] theorem State.emit_pc (s : State) (e : Event) : (s.emit e).pc = s.pc := rfl

@[simp] theorem State.emit_stack (s : State) (e : Event) : (s.emit e).stack = s.stack := rfl

@[simp] theorem State.emit_sp (s : State) (e : Event) : (s.emit e).sp = s.sp := rfl

@[simp] theorem State.emit_dt (s : State) (e : Event) : (s.emit e).dt = s.dt := rfl

@[simp] theorem State.emit_st (s : State) (e : Event) : (s.emit e).st = s.st := rfl

@[simp] theorem State.emit_disp (s : State) (e : Event) : (s.emit e).disp = s.disp := rfl

@[simp] theorem State.emit_keys (s : State) (e : Event) : (s.emit e).keys = s.keys := rfl

@[simp] theorem State.emit_runState (s : State) (e : Event) : (s.emit e).runState = s.runState := rfl

@[simp] theorem State.emit_faultCause (s : State) (e : Event) : (s.emit e).faultCause = s.faultCause := rfl

@[simp] theorem State.emit_faultPc (s : State) (e : Event) : (s.emit e).faultPc = s.faultPc := rfl

@[simp] theorem State.emit_config (s : State) (e : Event) : (s.emit e).config = s.config := rfl

@[simp] theorem State.emit_phase (s : State) (e : Event) : (s.emit e).phase = s.phase := rfl

@[simp] theorem State.emit_inbox (s : State) (e : Event) : (s.emit e).inbox = s.inbox := rfl

@[simp] theorem State.emit_rndDraws (s : State) (e : Event) : (s.emit e).rndDraws = s.rndDraws := rfl

@[simp] theorem State.emit_event (s : State) (e : Event) : (s.emit e).event = e := rfl

/-! ## raise -/

@[simp] theorem State.raise_mem (s : State) (c : FaultCause) : (s.raise c).mem = s.mem := rfl

@[simp] theorem State.raise_v (s : State) (c : FaultCause) : (s.raise c).v = s.v := rfl

@[simp] theorem State.raise_i (s : State) (c : FaultCause) : (s.raise c).i = s.i := rfl

@[simp] theorem State.raise_pc (s : State) (c : FaultCause) : (s.raise c).pc = s.pc := rfl

@[simp] theorem State.raise_stack (s : State) (c : FaultCause) : (s.raise c).stack = s.stack := rfl

@[simp] theorem State.raise_sp (s : State) (c : FaultCause) : (s.raise c).sp = s.sp := rfl

@[simp] theorem State.raise_dt (s : State) (c : FaultCause) : (s.raise c).dt = s.dt := rfl

@[simp] theorem State.raise_st (s : State) (c : FaultCause) : (s.raise c).st = s.st := rfl

@[simp] theorem State.raise_disp (s : State) (c : FaultCause) : (s.raise c).disp = s.disp := rfl

@[simp] theorem State.raise_keys (s : State) (c : FaultCause) : (s.raise c).keys = s.keys := rfl

@[simp] theorem State.raise_runState (s : State) (c : FaultCause) : (s.raise c).runState = .quit := rfl

@[simp] theorem State.raise_faultCause (s : State) (c : FaultCause) : (s.raise c).faultCause = c := rfl

@[simp] theorem State.raise_faultPc (s : State) (c : FaultCause) : (s.raise c).faultPc = s.pc := rfl

@[simp] theorem State.raise_config (s : State) (c : FaultCause) : (s.raise c).config = s.config := rfl

@[simp] theorem State.raise_phase (s : State) (c : FaultCause) : (s.raise c).phase = s.phase := rfl

@[simp] theorem State.raise_inbox (s : State) (c : FaultCause) : (s.raise c).inbox = s.inbox := rfl

@[simp] theorem State.raise_rndDraws (s : State) (c : FaultCause) : (s.raise c).rndDraws = s.rndDraws := rfl

@[simp] theorem State.raise_event (s : State) (c : FaultCause) : (s.raise c).event = .fault c s.pc := rfl

/-! ## Reads after writes -/

@[simp] theorem State.getV_setV (s : State) (r q : Reg) (b : Byte) :
    (s.setV r b).getV q = if q = r then b else s.getV q := by
  simp [State.getV, Vector.getElem_set, Fin.ext_iff, eq_comm]

@[simp] theorem State.getV_setVF (s : State) (q : Reg) (b : Byte) :
    (s.setVF b).getV q = if q = regVF then b else s.getV q := State.getV_setV s regVF q b

/-- A read of a register depends on the register file alone. -/
theorem State.getV_congr (s t : State) (h : t.v = s.v) (r : Reg) : t.getV r = s.getV r := by
  simp [State.getV, h]

@[simp] theorem State.pixel_setPixel (s : State) (r r' : Fin 32) (c c' : Fin 64) (b : Bool) :
    (s.setPixel r c b).pixel r' c' = if r' = r ∧ c' = c then b else s.pixel r' c' := by
  simp only [State.pixel, State.setPixel_disp, Vector.getElem_set]
  by_cases hr : r = r'
  · subst hr
    by_cases hc : c = c'
    · subst hc; simp
    · have : ¬ c.val = c'.val := fun h => hc (Fin.ext h)
      simp [Ne.symm hc, this]
  · have : ¬ r.val = r'.val := fun h => hr (Fin.ext h)
    simp [this, Ne.symm hr]

/-- A read of a cell depends on the grid alone. -/
theorem State.pixel_congr (s t : State) (h : t.disp = s.disp) (r : Fin 32) (c : Fin 64) :
    t.pixel r c = s.pixel r c := by simp [State.pixel, h]

@[simp] theorem State.pixel_setV (s : State) (q : Reg) (b : Byte) (r : Fin 32) (c : Fin 64) :
    (s.setV q b).pixel r c = s.pixel r c := rfl

@[simp] theorem State.pixel_setVF (s : State) (b : Byte) (r : Fin 32) (c : Fin 64) :
    (s.setVF b).pixel r c = s.pixel r c := rfl

@[simp] theorem State.getV_setPixel (s : State) (r : Fin 32) (c : Fin 64) (b : Bool) (q : Reg) :
    (s.setPixel r c b).getV q = s.getV q := rfl

/-- Grids that read alike at every cell are equal. -/
theorem State.disp_eq_of_pixel (s t : State) (h : ∀ r c, t.pixel r c = s.pixel r c) :
    t.disp = s.disp := by
  apply Vector.ext
  intro r hr
  apply Vector.ext
  intro c hc
  exact h ⟨r, hr⟩ ⟨c, hc⟩

@[simp] theorem State.key_setKey (s : State) (k q : Fin 16) (b : Bool) :
    (s.setKey k b).key q = if q = k then b else s.key q := by
  simp [State.key, Vector.getElem_set, Fin.ext_iff, eq_comm]

end Sys2Proof.Machine
end

