-- ==== Sys2Proof/Laws/Ops.lean ====
section
/-! SUPPORT. One lemma per shared operation that says once everything it can do: guarded operations, skips,
sprite drawing, step (a) of a tick, register blocks. -/

namespace Sys2Proof.Machine

/-- A guarded operation answers next: the fault where the guard fails, the body where it holds. -/
theorem orRaise_eq (ok : Bool) (c : FaultCause) (s body : State) :
    orRaise ok c s body = .next (if ok = true then body else s.raise c) := rfl

@[simp] theorem orRaise_true (c : FaultCause) (s body : State) :
    orRaise true c s body = .next body := rfl

@[simp] theorem orRaise_false (c : FaultCause) (s body : State) :
    orRaise false c s body = .next (s.raise c) := rfl

/-- A skip changes PC alone. -/
theorem State.skipIf_eq (s : State) (c : Bool) :
    s.skipIf c = { s with pc := if c = true then s.pc + 2 else s.pc } := by
  cases c <;> rfl

/-- The bounds check in the spec's words (R56): no byte, or the last one at most 0xFFF. -/
theorem State.rangeOk_iff (s : State) (n : Nat) :
    s.rangeOk n = true ↔ n = 0 ∨ s.i.toNat + n - 1 ≤ 0xFFF := by
  simp [State.rangeOk]

theorem State.rangeOk_succ_iff (s : State) (n : Nat) :
    s.rangeOk (n + 1) = true ↔ s.i.toNat + n ≤ 0xFFF := by
  rw [State.rangeOk_iff]; omega

theorem State.keyIndexOk_iff (s : State) (x : Reg) :
    s.keyIndexOk x = true ↔ (s.getV x).toNat ≤ 15 := by
  simp [State.keyIndexOk]

/-! ## Register blocks -/

theorem State.length_regBlock (s : State) (x : Reg) : (s.regBlock x).length = x.val + 1 := by
  simp [State.regBlock]

theorem State.regBlock_getElem? (s : State) (x k : Reg) (h : k.val ≤ x.val) :
    (s.regBlock x)[k.val]? = some (s.getV k) := by
  have hk : k.val < x.val + 1 := by omega
  simp [State.regBlock, State.getV, hk]

theorem State.getElem_loadedBlock (s : State) (x : Reg) (k : Nat) (hk : k < 16) :
    (s.loadedBlock x)[k] = if k ≤ x.val then s.mem.read (s.dataAddr k) else s.v[k] := by
  simp only [State.loadedBlock, Vector.getElem_ofFn]

/-! ## Drawing -/

/-- Drawing one bit changes the grid and VF alone. -/
theorem State.drawBit_frame (s : State) (row col : Nat) (on : Bool) :
    s.drawBit row col on =
      { s with v := (s.drawBit row col on).v, disp := (s.drawBit row col on).disp } := by
  unfold State.drawBit
  split
  · cases on
    · rfl
    · simp only [if_true]; split <;> rfl
  · rfl

/-- A property kept by every function of a list is kept by the fold. -/
theorem foldl_invariant {α β : Type} (P : α → Prop) (f : α → β → α)
    (h : ∀ a b, P a → P (f a b)) : ∀ (l : List β) (a : α), P a → P (l.foldl f a)
  | [], _, ha => ha
  | b :: l, a, ha => foldl_invariant P f h l (f a b) (h a b ha)

/-- Everything but the registers and the grid is equal. -/
def State.SameButDraw (s t : State) : Prop := t = { s with v := t.v, disp := t.disp }

theorem State.SameButDraw.refl (s : State) : s.SameButDraw s := rfl

theorem State.SameButDraw.trans {s t u : State} (h : s.SameButDraw t) (h' : t.SameButDraw u) :
    s.SameButDraw u := by
  unfold State.SameButDraw at *
  rw [h', h]

/-- Drawing a byte changes the grid and the registers alone. -/
theorem State.drawByte_frame (s : State) (row x0 : Nat) (b : Byte) :
    s.SameButDraw (s.drawByte row x0 b) :=
  foldl_invariant (fun t => s.SameButDraw t) _
    (fun t c h => h.trans (State.drawBit_frame t row (x0 + c) (b.getLsbD (7 - c)))) _ s (.refl s)

/-- Drawing a sprite changes the grid and the registers alone. -/
theorem State.drawSprite_frame (s : State) (x0 y0 n : Nat) :
    s.SameButDraw (s.drawSprite x0 y0 n) :=
  foldl_invariant (fun t => s.SameButDraw t) _
    (fun t r h => h.trans (State.drawByte_frame t (y0 + r) x0 _)) _ s (.refl s)

/-- One bit on a cell of the grid: the cell is XORed (R152). -/
theorem State.pixel_drawBit (s : State) (row col : Nat) (on : Bool) (r : Fin 32) (c : Fin 64) :
    (s.drawBit row col on).pixel r c =
      (s.pixel r c ^^ (on && (r.val == row && c.val == col))) := by
  unfold State.drawBit
  by_cases h : row < 32 ∧ col < 64
  · rw [dif_pos h]
    cases on
    · simp
    · by_cases hrc : r = ⟨row, h.1⟩ ∧ c = ⟨col, h.2⟩
      · obtain ⟨rfl, rfl⟩ := hrc
        cases hp : s.pixel ⟨row, h.1⟩ ⟨col, h.2⟩ <;>
          simp
      · have hne : (r.val == row && c.val == col) = false := by
          simp only [Fin.ext_iff] at hrc
          simpa using hrc
        cases hp : s.pixel ⟨row, h.1⟩ ⟨col, h.2⟩ <;>
          simp [hrc, hne]
  · rw [dif_neg h]
    have : (r.val == row && c.val == col) = false := by
      simp only [Bool.and_eq_false_imp, beq_iff_eq, beq_eq_false_iff_ne]
      intro h1 h2
      exact h ⟨by omega, by omega⟩
    simp [this]

/-- One bit and VF: set exactly if the bit lands on a lit cell of the screen (R152). -/
theorem State.getV_drawBit (s : State) (row col : Nat) (on : Bool) (q : Reg) :
    (s.drawBit row col on).getV q =
      if q = regVF ∧ on = true ∧ ∃ h : row < 32 ∧ col < 64, s.pixel ⟨row, h.1⟩ ⟨col, h.2⟩ = true
      then 0x01 else s.getV q := by
  unfold State.drawBit
  by_cases h : row < 32 ∧ col < 64
  · rw [dif_pos h]
    cases on
    · simp
    · cases hp : s.pixel ⟨row, h.1⟩ ⟨col, h.2⟩
      · simp [hp]
      · simp [hp, h]
  · rw [dif_neg h]
    simp [h]

/-! ## Publishing -/

/-- Rows of `n` cells laid end to end: cell `c` of row `r` stands at `r * n + c`. -/
theorem getElem?_flatMap_rows {α : Type} {n : Nat} :
    ∀ (rows : List (Vector α n)) (r c : Nat) (row : Vector α n), rows[r]? = some row → c < n →
      (rows.flatMap Vector.toList)[r * n + c]? = row.toList[c]?
  | [], _, _, _, h, _ => by simp at h
  | first :: rows, 0, c, row, h, hc => by
    have : first = row := by simpa using h
    subst this
    rw [List.flatMap_cons, Nat.zero_mul, Nat.zero_add, List.getElem?_append_left (by simpa using hc)]
  | first :: rows, r + 1, c, row, h, hc => by
    have hlen : first.toList.length ≤ (r + 1) * n + c := by
      simp [Nat.add_mul]; omega
    have hsub : (r + 1) * n + c - first.toList.length = r * n + c := by
      simp [Nat.add_mul]; omega
    rw [List.flatMap_cons, List.getElem?_append_right hlen, hsub]
    exact getElem?_flatMap_rows rows r c row (by simpa using h) hc

/-- The published list is row-major (R189). -/
theorem Display.flat_getElem? (s : State) (r : Fin 32) (c : Fin 64) :
    (Display.flat s.disp)[r.val * 64 + c.val]? = some (s.pixel r c) := by
  unfold Display.flat
  rw [getElem?_flatMap_rows s.disp.toList r.val c.val s.disp[r.val] (by simp) c.isLt]
  simp [State.pixel]

/-- The published list has all 2048 cells (R189). -/
theorem Display.length_flat (d : Display) : (Display.flat d).length = 2048 := by
  simp [Display.flat, List.length_flatMap]

/-! ## Step (a) of a tick -/

/-- Key events change the keys alone. -/
theorem State.applyKeys_frame (events : List (Fin 16 × Bool)) (s : State) :
    s.applyKeys events = { s with keys := (s.applyKeys events).keys } :=
  foldl_invariant (fun t : State => t = { s with keys := t.keys })
    (fun t (e : Fin 16 × Bool) => t.setKey e.1 e.2)
    (fun t e h => by rw [h]; rfl) events s rfl

/-- Step (a) changes the keys and the run state alone. -/
theorem State.applyInput_frame (s : State) (input : TickInput) :
    s.applyInput input = { s with
      keys := (s.applyKeys input.keyEvents).keys
      runState := input.runRequest.getD s.runState } := by
  simp only [State.applyInput]
  rw [State.applyKeys_frame input.keyEvents s]

/-! ## Reset -/

/-- Reset memory, whatever the font and the ROM, is in canonical form. -/
theorem State.resetWith_wf (config : SessionConfig) (font : Font) (rom : Rom)
    (inbox : List HostEvent) : (State.resetWith config font rom inbox).mem.wf = true := by
  unfold State.resetWith State.resetBase
  split
  · exact Memory.writeBytes_wf _ _ _ (Memory.writeBytes_wf _ _ _ rfl)
  · exact Memory.writeBytes_wf _ _ _ rfl

/-- A restarted machine's memory is in canonical form. -/
theorem State.restart_wf (s : State) (config : SessionConfig) (font : Font) (rom : Rom)
    (inbox : List HostEvent) : (s.restart config font rom inbox).mem.wf = true :=
  State.resetWith_wf config font rom inbox

end Sys2Proof.Machine
end

