-- ==== Sys2Proof/Laws/PerInstr.lean ====
section
/-! SUPPORT. Statements made of every instruction, one lemma per constructor. `TableRow`: the encoding of an
instruction is selected by its own row of the opcode table (spec/30_encoding.md R82). -/

namespace Sys2Proof.Laws.TableRow

/-- The row of `tableRows` at the instruction's place selects its encoding. -/
def Statement (i : Instr) : Prop :=
  ∃ r, tableRows[i.rowIndex]? = some r ∧ r.selects (encodeWord i) = true

/-- A mask that splits into the category's and another part. -/
theorem and_or (w a b p q : Word) (h : w &&& a = p) (h' : w &&& b = q) :
    w &&& (a ||| b) = p ||| q := by
  rw [← h, ← h']
  ext k hk
  simp only [BitVec.getElem_and, BitVec.getElem_or]
  cases w[k] <;> simp

/-- A row with mask 0xF000. -/
theorem selects_category (w p : Word) (build : Word → Instr) (c : Nibble) (h : fieldC w = c)
    (hp : BitVec.ofNat 16 (c.val * 4096) = p) :
    TableRow.selects ⟨0xF000, p, build⟩ w = true := by
  rw [TableRow.selects_iff, and_F000, h, hp]

/-- A row with mask 0xF00F. -/
theorem selects_nibble (w p : Word) (build : Word → Instr) (c n : Nibble) (h : fieldC w = c)
    (hn : fieldN w = n) (hp : BitVec.ofNat 16 (c.val * 4096) ||| BitVec.ofNat 16 n.val = p) :
    TableRow.selects ⟨0xF00F, p, build⟩ w = true := by
  rw [TableRow.selects_iff, ← hp]
  exact and_or w 0xF000 0x000F _ _ (by rw [and_F000, h]) (by rw [and_000F, hn])

/-- A row with mask 0xF0FF. -/
theorem selects_byte (w p : Word) (build : Word → Instr) (c : Nibble) (nn : Byte) (h : fieldC w = c)
    (hn : fieldNN w = nn)
    (hp : BitVec.ofNat 16 (c.val * 4096) ||| BitVec.ofNat 16 nn.toNat = p) :
    TableRow.selects ⟨0xF0FF, p, build⟩ w = true := by
  rw [TableRow.selects_iff, ← hp]
  exact and_or w 0xF000 0x00FF _ _ (by rw [and_F000, h]) (by rw [and_00FF, hn])

theorem cls : Statement (.cls) :=
  ⟨_, rfl, by decide⟩

theorem ret : Statement (.ret) :=
  ⟨_, rfl, by decide⟩

theorem sys (nnn : Imm12) : Statement (.sys nnn) :=
  ⟨_, rfl, selects_category _ _ _ _ (fieldC_encodeNNN _ _) (by decide)⟩

theorem jp (nnn : Imm12) : Statement (.jp nnn) :=
  ⟨_, rfl, selects_category _ _ _ _ (fieldC_encodeNNN _ _) (by decide)⟩

theorem call (nnn : Imm12) : Statement (.call nnn) :=
  ⟨_, rfl, selects_category _ _ _ _ (fieldC_encodeNNN _ _) (by decide)⟩

theorem seImm (x : Reg) (nn : Byte) : Statement (.seImm x nn) :=
  ⟨_, rfl, selects_category _ _ _ _ (fieldC_encodeXNN _ _ _) (by decide)⟩

theorem sneImm (x : Reg) (nn : Byte) : Statement (.sneImm x nn) :=
  ⟨_, rfl, selects_category _ _ _ _ (fieldC_encodeXNN _ _ _) (by decide)⟩

theorem seReg (x y : Reg) (n : Nibble) : Statement (.seReg x y n) :=
  ⟨_, rfl, selects_category _ _ _ _ (fieldC_encodeXYN _ _ _ _) (by decide)⟩

theorem ldImm (x : Reg) (nn : Byte) : Statement (.ldImm x nn) :=
  ⟨_, rfl, selects_category _ _ _ _ (fieldC_encodeXNN _ _ _) (by decide)⟩

theorem addImm (x : Reg) (nn : Byte) : Statement (.addImm x nn) :=
  ⟨_, rfl, selects_category _ _ _ _ (fieldC_encodeXNN _ _ _) (by decide)⟩

theorem ldReg (x y : Reg) : Statement (.ldReg x y) :=
  ⟨_, rfl, selects_nibble _ _ _ _ _ (fieldC_encodeXYN _ _ _ _) (fieldN_encodeXYN _ _ _ _) (by decide)⟩

theorem orReg (x y : Reg) : Statement (.orReg x y) :=
  ⟨_, rfl, selects_nibble _ _ _ _ _ (fieldC_encodeXYN _ _ _ _) (fieldN_encodeXYN _ _ _ _) (by decide)⟩

theorem andReg (x y : Reg) : Statement (.andReg x y) :=
  ⟨_, rfl, selects_nibble _ _ _ _ _ (fieldC_encodeXYN _ _ _ _) (fieldN_encodeXYN _ _ _ _) (by decide)⟩

theorem xorReg (x y : Reg) : Statement (.xorReg x y) :=
  ⟨_, rfl, selects_nibble _ _ _ _ _ (fieldC_encodeXYN _ _ _ _) (fieldN_encodeXYN _ _ _ _) (by decide)⟩

theorem addReg (x y : Reg) : Statement (.addReg x y) :=
  ⟨_, rfl, selects_nibble _ _ _ _ _ (fieldC_encodeXYN _ _ _ _) (fieldN_encodeXYN _ _ _ _) (by decide)⟩

theorem subReg (x y : Reg) : Statement (.subReg x y) :=
  ⟨_, rfl, selects_nibble _ _ _ _ _ (fieldC_encodeXYN _ _ _ _) (fieldN_encodeXYN _ _ _ _) (by decide)⟩

theorem shr (x y : Reg) : Statement (.shr x y) :=
  ⟨_, rfl, selects_nibble _ _ _ _ _ (fieldC_encodeXYN _ _ _ _) (fieldN_encodeXYN _ _ _ _) (by decide)⟩

theorem subnReg (x y : Reg) : Statement (.subnReg x y) :=
  ⟨_, rfl, selects_nibble _ _ _ _ _ (fieldC_encodeXYN _ _ _ _) (fieldN_encodeXYN _ _ _ _) (by decide)⟩

theorem shl (x y : Reg) : Statement (.shl x y) :=
  ⟨_, rfl, selects_nibble _ _ _ _ _ (fieldC_encodeXYN _ _ _ _) (fieldN_encodeXYN _ _ _ _) (by decide)⟩

theorem sneReg (x y : Reg) (n : Nibble) : Statement (.sneReg x y n) :=
  ⟨_, rfl, selects_category _ _ _ _ (fieldC_encodeXYN _ _ _ _) (by decide)⟩

theorem ldI (nnn : Imm12) : Statement (.ldI nnn) :=
  ⟨_, rfl, selects_category _ _ _ _ (fieldC_encodeNNN _ _) (by decide)⟩

theorem jpV0 (nnn : Imm12) : Statement (.jpV0 nnn) :=
  ⟨_, rfl, selects_category _ _ _ _ (fieldC_encodeNNN _ _) (by decide)⟩

theorem rnd (x : Reg) (nn : Byte) : Statement (.rnd x nn) :=
  ⟨_, rfl, selects_category _ _ _ _ (fieldC_encodeXNN _ _ _) (by decide)⟩

theorem drw (x y : Reg) (n : Nibble) : Statement (.drw x y n) :=
  ⟨_, rfl, selects_category _ _ _ _ (fieldC_encodeXYN _ _ _ _) (by decide)⟩

theorem skp (x : Reg) : Statement (.skp x) :=
  ⟨_, rfl, selects_byte _ _ _ _ _ (fieldC_encodeXNN _ _ _) (fieldNN_encodeXNN _ _ _) (by decide)⟩

theorem sknp (x : Reg) : Statement (.sknp x) :=
  ⟨_, rfl, selects_byte _ _ _ _ _ (fieldC_encodeXNN _ _ _) (fieldNN_encodeXNN _ _ _) (by decide)⟩

theorem ldVxDt (x : Reg) : Statement (.ldVxDt x) :=
  ⟨_, rfl, selects_byte _ _ _ _ _ (fieldC_encodeXNN _ _ _) (fieldNN_encodeXNN _ _ _) (by decide)⟩

theorem ldVxK (x : Reg) : Statement (.ldVxK x) :=
  ⟨_, rfl, selects_byte _ _ _ _ _ (fieldC_encodeXNN _ _ _) (fieldNN_encodeXNN _ _ _) (by decide)⟩

theorem ldDtVx (x : Reg) : Statement (.ldDtVx x) :=
  ⟨_, rfl, selects_byte _ _ _ _ _ (fieldC_encodeXNN _ _ _) (fieldNN_encodeXNN _ _ _) (by decide)⟩

theorem ldStVx (x : Reg) : Statement (.ldStVx x) :=
  ⟨_, rfl, selects_byte _ _ _ _ _ (fieldC_encodeXNN _ _ _) (fieldNN_encodeXNN _ _ _) (by decide)⟩

theorem addI (x : Reg) : Statement (.addI x) :=
  ⟨_, rfl, selects_byte _ _ _ _ _ (fieldC_encodeXNN _ _ _) (fieldNN_encodeXNN _ _ _) (by decide)⟩

theorem ldF (x : Reg) : Statement (.ldF x) :=
  ⟨_, rfl, selects_byte _ _ _ _ _ (fieldC_encodeXNN _ _ _) (fieldNN_encodeXNN _ _ _) (by decide)⟩

theorem ldB (x : Reg) : Statement (.ldB x) :=
  ⟨_, rfl, selects_byte _ _ _ _ _ (fieldC_encodeXNN _ _ _) (fieldNN_encodeXNN _ _ _) (by decide)⟩

theorem storeRegs (x : Reg) : Statement (.storeRegs x) :=
  ⟨_, rfl, selects_byte _ _ _ _ _ (fieldC_encodeXNN _ _ _) (fieldNN_encodeXNN _ _ _) (by decide)⟩

theorem loadRegs (x : Reg) : Statement (.loadRegs x) :=
  ⟨_, rfl, selects_byte _ _ _ _ _ (fieldC_encodeXNN _ _ _) (fieldNN_encodeXNN _ _ _) (by decide)⟩

theorem unrecognised8 (x y : Reg) (n : Nibble) : Statement (.unrecognised8 x y n) :=
  ⟨_, rfl, selects_category _ _ _ _ (fieldC_encodeXYN _ _ _ _) (by decide)⟩

theorem unrecognisedE (x : Reg) (nn : Byte) : Statement (.unrecognisedE x nn) :=
  ⟨_, rfl, selects_category _ _ _ _ (fieldC_encodeXNN _ _ _) (by decide)⟩

theorem unrecognisedF (x : Reg) (nn : Byte) : Statement (.unrecognisedF x nn) :=
  ⟨_, rfl, selects_category _ _ _ _ (fieldC_encodeXNN _ _ _) (by decide)⟩

end Sys2Proof.Laws.TableRow
end

