-- ==== Sys2Proof/Laws/Step.lean ====
section
/-! SUPPORT. What one move can do: the cases in which `step` answers a next state, each with that state
(spec/60_exceptions.md R185, spec/40_dispatch_cycle.md R90). -/

namespace Sys2Proof.Machine

/-- A session is over exactly in QUIT or with a fault recorded (R30, R90). -/
theorem State.ended_iff (s : State) : s.ended = true ↔ s.runState = .quit ∨ s.faultCause ≠ .none := by
  simp [State.ended]

theorem State.ended_eq_false_iff (s : State) :
    s.ended = false ↔ s.runState ≠ .quit ∧ s.faultCause = .none := by
  simp [State.ended]

/-- The state an instruction of a batch gets: one slot less, no event, PC advanced (R92). -/
def State.fetched (s : State) (left : Nat) : State :=
  { s with phase := .batch left, event := .none, pc := s.pc + 2 }

/-- A batch step with PC in range executes the decoded instruction on the fetched state. -/
theorem State.instrMove_of_canFetch (s : State) (left : Nat) (h : s.canFetch = true) :
    { s with phase := .batch left }.instrMove = .run (decodeWord s.fetchWord) (s.fetched left) := by
  have h' : { s with phase := Phase.batch left }.canFetch = true := h
  simp only [State.instrMove, h', if_true]
  rfl

/-- Inside a tick the reset that comes at this place is the one at the head of `inbox`. -/
theorem State.resetInTick_eq_some_iff (s t : State) :
    s.resetInTick = some t ↔ ∃ config font rom rest,
      s.inbox = .reset s.phase config font rom :: rest ∧ t = s.restart config font rom rest := by
  unfold State.resetInTick
  match s.inbox with
  | [] => simp
  | .tick _ :: _ => simp
  | .reset place config font rom :: rest =>
    by_cases h : place = s.phase
    · simp [h, eq_comm]
    · simp [h]

theorem State.resetInTick_eq_none_iff (s : State) :
    s.resetInTick = none ↔
      ∀ config font rom rest, s.inbox ≠ .reset s.phase config font rom :: rest := by
  constructor
  · intro h config font rom rest hi
    have := (State.resetInTick_eq_some_iff s _).mpr ⟨config, font, rom, rest, hi, rfl⟩
    rw [h] at this
    exact absurd this (by simp)
  · intro h
    cases hr : s.resetInTick with
    | none => rfl
    | some t =>
      obtain ⟨config, font, rom, rest, hi, -⟩ := (State.resetInTick_eq_some_iff s t).mp hr
      exact absurd hi (h config font rom rest)

/-- Inside a tick, where no reset comes, the tick goes on. -/
theorem State.nextMove_of_batch (s : State) (left : Nat) (he : s.ended = false)
    (hp : s.phase = .batch left)
    (hn : ∀ config font rom rest, s.inbox ≠ .reset s.phase config font rom :: rest) :
    s.nextMove = s.batchMove left := by
  simp [State.nextMove, he, hp, State.tickMove, (State.resetInTick_eq_none_iff s).mpr hn]

/-- A step of a batch with PC in range, where no reset comes, runs the decoded instruction. -/
theorem step_of_batch (s : State) (left : Nat) (he : s.ended = false) (hr : s.runState = .running)
    (hp : s.phase = .batch (left + 1))
    (hn : ∀ config font rom rest, s.inbox ≠ .reset s.phase config font rom :: rest)
    (hc : s.canFetch = true) : step s = exec (decodeWord s.fetchWord) (s.fetched left) := by
  simp only [step, State.nextMove_of_batch s (left + 1) he hp hn, State.batchMove, if_pos hr,
    State.instrMove_of_canFetch s left hc]

/-- The ways a move answers a next state. -/
inductive Moved (s t : State) : Prop where
  /-- a tick after the end of the session is ignored -/
  | ignoredTick (input : TickInput) (rest : List HostEvent) (ended : s.ended = true)
      (delivery : s.inbox = .tick input :: rest) (result : t = { s with inbox := rest, event := .none })
  /-- a reset -/
  | reset (place : Phase) (config : SessionConfig) (font : Font) (rom : Rom) (rest : List HostEvent)
      (delivery : s.inbox = .reset place config font rom :: rest)
      (lands : s.ended = true ∨ s.phase = .boundary ∨ s.phase = place)
      (result : t = s.restart config font rom rest)
  /-- a tick starts: one delivered by the host, or one without events -/
  | tickStarts (input : TickInput) (rest : List HostEvent) (alive : s.ended = false)
      (place : s.phase = .boundary)
      (delivery : s.inbox = .tick input :: rest ∨ s.inbox = [] ∧ rest = [] ∧ input = TickInput.silent)
      (result : t = { s with inbox := rest }.beginTick input)
  /-- a tick ends -/
  | tickEnds (alive : s.ended = false) (place : s.phase = .batch 0)
      (stays : ∀ config font rom rest, s.inbox ≠ .reset s.phase config font rom :: rest)
      (result : t = s.endTick)
  /-- the fetch check faults -/
  | fetchFault (left : Nat) (alive : s.ended = false) (running : s.runState = .running)
      (place : s.phase = .batch (left + 1))
      (stays : ∀ config font rom rest, s.inbox ≠ .reset s.phase config font rom :: rest)
      (outside : s.canFetch = false)
      (result : t = { s with phase := .batch left }.raise .pcOutOfRange)
  /-- an instruction runs -/
  | instruction (left : Nat) (alive : s.ended = false) (running : s.runState = .running)
      (place : s.phase = .batch (left + 1))
      (stays : ∀ config font rom rest, s.inbox ≠ .reset s.phase config font rom :: rest)
      (inside : s.canFetch = true)
      (result : exec (decodeWord s.fetchWord) (s.fetched left) = .next t)

/-- The moves inside a tick where no reset comes. -/
theorem moved_of_batchMove (s t : State) (left : Nat) (he : s.ended = false)
    (hp : s.phase = .batch left)
    (hn : ∀ config font rom rest, s.inbox ≠ .reset s.phase config font rom :: rest)
    (h : (match s.batchMove left with
      | .stop r => .fault r
      | .go u => .next u
      | .run i u => exec i u) = (.next t : Outcome)) : Moved s t := by
  match left with
  | 0 =>
    simp only [State.batchMove, Host.Outcome.next.injEq] at h
    exact .tickEnds he hp hn h.symm
  | left + 1 =>
    simp only [State.batchMove] at h
    by_cases hr : s.runState = .running
    · rw [if_pos hr] at h
      cases hc : s.canFetch with
      | true =>
        rw [State.instrMove_of_canFetch s left hc] at h
        exact .instruction left he hr hp hn hc h
      | false =>
        have hc' : { s with phase := Phase.batch left }.canFetch = false := hc
        simp only [State.instrMove, hc', Bool.false_eq_true, if_false,
          Host.Outcome.next.injEq] at h
        exact .fetchFault left he hr hp hn hc h.symm
    · rw [if_neg hr] at h
      exact absurd h (by simp)

/-- Every next state of a move is one of these. -/
theorem step_moved (s t : State) (h : step s = .next t) : Moved s t := by
  unfold step State.nextMove at h
  cases he : s.ended with
  | true =>
    simp only [he, if_true, State.endedMove] at h
    match hi : s.inbox with
    | [] => simp [hi] at h
    | .tick input :: rest =>
      simp only [hi, Host.Outcome.next.injEq] at h
      exact .ignoredTick input rest he hi h.symm
    | .reset place config font rom :: rest =>
      simp only [hi, Host.Outcome.next.injEq] at h
      exact .reset place config font rom rest hi (.inl he) h.symm
  | false =>
    simp only [he, Bool.false_eq_true, if_false] at h
    match hp : s.phase with
    | .boundary =>
      simp only [hp, State.boundaryMove] at h
      match hi : s.inbox with
      | [] =>
        simp only [hi, Host.Outcome.next.injEq] at h
        refine .tickStarts TickInput.silent [] he hp (.inr ⟨hi, rfl, rfl⟩) ?_
        rw [← h, ← hi]
      | .tick input :: rest =>
        simp only [hi, Host.Outcome.next.injEq] at h
        exact .tickStarts input rest he hp (.inl hi) (by rw [← h, ← hp])
      | .reset place config font rom :: rest =>
        simp only [hi, Host.Outcome.next.injEq] at h
        exact .reset place config font rom rest hi (.inr (.inl hp)) h.symm
    | .batch left =>
      simp only [hp, State.tickMove] at h
      cases hr : s.resetInTick with
      | some u =>
        obtain ⟨config, font, rom, rest, hi, hu⟩ := (State.resetInTick_eq_some_iff s u).mp hr
        simp only [hr, Host.Outcome.next.injEq] at h
        exact .reset s.phase config font rom rest hi (.inr (.inr rfl)) (h ▸ hu)
      | none =>
        simp only [hr] at h
        exact moved_of_batchMove s t left he hp
          ((State.resetInTick_eq_none_iff s).mp hr) h

end Sys2Proof.Machine
end

