-- ==== Sys2Proof/Tests/Slice0.lean ====
section
/-! SUPPORT. Small tests and witnesses. Expected values come from the worked examples of the instruction rules
and from spec/95_test_vectors.md sections 1 and 2; opcodes are written out from the layouts of
spec/30_encoding.md R72 and R82. -/

namespace Sys2Proof.Tests

open Sys2Proof Sys2Proof.Machine Sys2Proof.Claims

/-- The state right after fetching at 0x200, with some registers set. -/
def regs (vs : List (Reg × Byte)) : State :=
  vs.foldl (fun s p => s.setV p.1 p.2) { State.reset with pc := 0x202 }

/-- The same with I set. -/
def regsI (i : Word) (vs : List (Reg × Byte)) : State := { regs vs with i := i }

/-- The same with bytes stored at I. -/
def sprite (i : Word) (bytes : List Byte) (vs : List (Reg × Byte)) : State :=
  { regsI i vs with mem := Memory.writeBytes [] i.toNat bytes }

/-- The state an instruction answers. -/
def after (i : Instr) (s : State) : State :=
  match exec i s with
  | .next t => t
  | .fault _ => s
  | .refused _ => s

/-- A reset the host delivers for a place in the tick sequence. -/
def resetAt (place : Phase) : HostEvent := .reset place ⟨8, true⟩ Config.defaultFont (.bytes [0x12, 0x00])

/-- A state inside a tick with bytes at PC, about to fetch. -/
def live (pc : Word) (bytes : List Byte) : State :=
  { State.reset with pc := pc, phase := .batch 1, mem := Memory.writeBytes [] pc.toNat bytes }

/-! ## Well-formedness: each check refuses an ill-formed term -/

theorem test_wf_sys : (Instr.sys 0x0E0).wf = false ∧ (Instr.sys 0x0EE).wf = false := by decide

theorem test_wf_unrecognised8 :
    (Instr.unrecognised8 0 0 7).wf = false ∧ (Instr.unrecognised8 0 0 0xE).wf = false ∧
      (Instr.unrecognised8 0 0 8).wf = true := by decide

theorem test_wf_unrecognisedE :
    (Instr.unrecognisedE 0 0x9E).wf = false ∧ (Instr.unrecognisedE 0 0xA1).wf = false := by decide

theorem test_wf_unrecognisedF :
    [0x07, 0x0A, 0x15, 0x18, 0x1E, 0x29, 0x33, 0x55, 0x65].all
      (fun nn => !(Instr.unrecognisedF 0 nn).wf) = true := by decide

/-! ## Decoding: one opcode of every constructor, bit by bit -/

theorem test_decode_control :
    decodeWord 0b0000000011101110 = .ret ∧ decodeWord 0b0000001100000000 = .sys 0x300 ∧
    decodeWord 0b0001001000000100 = .jp 0x204 ∧ decodeWord 0b0010010100000000 = .call 0x500 ∧
    decodeWord 0b1011001111110000 = .jpV0 0x3F0 := by decide

theorem test_decode_skips :
    decodeWord 0b0011111100000001 = .seImm 0xF 0x01 ∧
    decodeWord 0b0100001000001000 = .sneImm 2 0x08 ∧
    decodeWord 0b0101101010110000 = .seReg 0xA 0xB 0 ∧
    decodeWord 0b1001101010110001 = .sneReg 0xA 0xB 1 := by decide

theorem test_decode_alu :
    decodeWord 0b0110101011111111 = .ldImm 0xA 0xFF ∧
    decodeWord 0b0111000000000011 = .addImm 0 0x03 ∧
    decodeWord 0b1000000000010000 = .ldReg 0 1 ∧ decodeWord 0b1000000000010001 = .orReg 0 1 ∧
    decodeWord 0b1000000000010010 = .andReg 0 1 ∧ decodeWord 0b1000000000010011 = .xorReg 0 1 ∧
    decodeWord 0b1000000000010100 = .addReg 0 1 ∧ decodeWord 0b1000000000010101 = .subReg 0 1 ∧
    decodeWord 0b1000101010110110 = .shr 0xA 0xB ∧ decodeWord 0b1000000000010111 = .subnReg 0 1 ∧
    decodeWord 0b1000000000011110 = .shl 0 1 ∧
    decodeWord 0b1100000000001111 = .rnd 0 0x0F := by decide

theorem test_decode_index_memory :
    decodeWord 0b1010001100000000 = .ldI 0x300 ∧ decodeWord 0b1111001000011110 = .addI 2 ∧
    decodeWord 0b1111000000101001 = .ldF 0 ∧ decodeWord 0b1111000000110011 = .ldB 0 ∧
    decodeWord 0b1111000101010101 = .storeRegs 1 ∧
    decodeWord 0b1111001001100101 = .loadRegs 2 := by decide

theorem test_decode_display_keypad_timers :
    decodeWord 0b0000000011100000 = .cls ∧ decodeWord 0b1101000100100011 = .drw 1 2 3 ∧
    decodeWord 0b1110000110011110 = .skp 1 ∧ decodeWord 0b1110000010100001 = .sknp 0 ∧
    decodeWord 0b1111001100000111 = .ldVxDt 3 ∧ decodeWord 0b1111001000001010 = .ldVxK 2 ∧
    decodeWord 0b1111000000010101 = .ldDtVx 0 ∧ decodeWord 0b1111000100011000 = .ldStVx 1 := by decide

theorem test_decode_unrecognised :
    decodeWord 0b1000101010111111 = .unrecognised8 0xA 0xB 0xF ∧
    decodeWord 0b1110000110011111 = .unrecognisedE 1 0x9F ∧
    decodeWord 0b1111000010010000 = .unrecognisedF 0 0x90 := by decide

theorem test_decode_truncated :
    decode [0x60] = .error .truncated ∧ decode [] = .error .truncated := ⟨rfl, rfl⟩

/-! ## The host's view -/

theorem test_decodeTableWord :
    decodeTableWord 16 0xD123 = some (.drw 1 2 3) ∧ decodeTableWord 16 0x00E0 = some .cls ∧
    decodeTableWord 8 0xE0 = some .cls := by decide

/-- The words `60 05` at 0x200 run as the first instruction (S1): V0 = 5, PC = 0x202. -/
theorem test_first_instruction :
    (match step (State.reset.withFetchWord 16 0x6005) with
      | .next t => t.getV 0 == 5 && t.pc == 0x202
      | .fault _ => false
      | .refused _ => false) = true := by decide

/-! ## Control flow (95 section 2.3) -/

theorem test_ret :
    (after .ret { regs [] with sp := 2, stack := (regs []).stack.set 1 0x222 }).pc = 0x222 ∧
    (after .ret { regs [] with sp := 2, stack := (regs []).stack.set 1 0x222 }).sp = 1 := by decide

theorem test_ret_underflow :
    (after .ret { regs [] with pc := 0x402 }).faultCause.code = 1 ∧
    (after .ret { regs [] with pc := 0x402 }).faultPc = 0x402 := by decide

theorem test_sys : (after (.sys 0x300) (regs [])).pc = 0x300 ∧ (after (.sys 0x300) (regs [])).sp = 0 := by
  decide

theorem test_jp : (after (.jp 0xABC) (regs [])).pc = 0xABC := by decide

theorem test_call :
    (after (.call 0xABC) { regs [] with sp := 11 }).stack[11] = 0x202 ∧
    (after (.call 0xABC) { regs [] with sp := 11 }).sp = 12 ∧
    (after (.call 0xABC) { regs [] with sp := 11 }).pc = 0xABC := by decide

theorem test_call_overflow :
    (after (.call 0xABC) { regs [] with sp := 12 }).faultCause.code = 2 ∧
    (after (.call 0xABC) { regs [] with sp := 12 }).pc = 0x202 := by decide

theorem test_jpV0 :
    (after (.jpV0 0x3F0) (regs [(0, 0xFF), (3, 0x55)])).pc = 0x04EF ∧
    (after (.jpV0 0xFFF) (regs [(0, 0xFF)])).pc = 0x10FE := by decide

/-! ## Skips (95 section 2.4) -/

theorem test_seImm :
    (after (.seImm 0 0x42) (regs [(0, 0x42)])).pc = 0x204 ∧
    (after (.seImm 0 0x42) (regs [(0, 0x43)])).pc = 0x202 := by decide

theorem test_sneImm :
    (after (.sneImm 0 0x42) (regs [(0, 0x42)])).pc = 0x202 ∧
    (after (.sneImm 0 0x42) (regs [])).pc = 0x204 := by decide

theorem test_seReg :
    (after (.seReg 1 2 0xF) (regs [(1, 9), (2, 9)])).pc = 0x204 ∧
    (after (.seReg 1 2 0) (regs [(1, 9), (2, 0xA)])).pc = 0x202 := by decide

theorem test_sneReg :
    (after (.sneReg 1 2 0) (regs [(1, 9), (2, 0xA)])).pc = 0x204 ∧
    (after (.sneReg 1 1 0) (regs [(1, 9)])).pc = 0x202 := by decide

/-! ## Load and ALU (95 section 2.5, column "seq") -/

theorem test_ldImm : (after (.ldImm 0xA 0xFF) (regs [])).getV 0xA = 0xFF := by decide

theorem test_addImm :
    (after (.addImm 0 0x01) (regs [(0, 0xFF)])).getV 0 = 0 ∧
    (after (.addImm 0 0x01) (regs [(0, 0xFF)])).getV 15 = 0 := by decide

theorem test_ldReg : (after (.ldReg 0 1) (regs [(1, 0x2A)])).getV 0 = 0x2A := by decide

theorem test_orReg :
    (after (.orReg 0 1) (regs [(0, 0xF0), (1, 0x0F), (15, 1)])).getV 0 = 0xFF ∧
    (after (.orReg 0 1) (regs [(0, 0xF0), (1, 0x0F), (15, 1)])).getV 15 = 1 := by decide

theorem test_andReg : (after (.andReg 0 1) (regs [(0, 0xF0), (1, 0x3C)])).getV 0 = 0x30 := by decide

theorem test_xorReg : (after (.xorReg 0 1) (regs [(0, 0xF0), (1, 0x3C)])).getV 0 = 0xCC := by decide

theorem test_addReg :
    (after (.addReg 0 1) (regs [(0, 0xFF), (1, 0x01)])).getV 0 = 0 ∧
    (after (.addReg 0 1) (regs [(0, 0xFF), (1, 0x01)])).getV 15 = 1 := by decide

theorem test_addReg_vf :
    (after (.addReg 15 1) (regs [(15, 0x10), (1, 1)])).getV 15 = 0 ∧
    (after (.addReg 0 15) (regs [(0, 0xFF), (15, 2)])).getV 0 = 1 := by decide

theorem test_subReg :
    (after (.subReg 0 1) (regs [(0, 3), (1, 5)])).getV 0 = 0xFE ∧
    (after (.subReg 0 1) (regs [(0, 5), (1, 5)])).getV 15 = 0 ∧
    (after (.subReg 0 1) (regs [(0, 5), (1, 3)])).getV 15 = 1 := by decide

theorem test_subReg_vf :
    (after (.subReg 15 1) (regs [(15, 5), (1, 3)])).getV 15 = 0xFE ∧
    (after (.subReg 0 15) (regs [(0, 5), (15, 3)])).getV 0 = 4 := by decide

theorem test_subnReg :
    (after (.subnReg 0 1) (regs [(0, 3), (1, 5)])).getV 0 = 2 ∧
    (after (.subnReg 0 1) (regs [(0, 3), (1, 5)])).getV 15 = 1 := by decide

theorem test_subnReg_vf :
    (after (.subnReg 15 1) (regs [(15, 3), (1, 5)])).getV 15 = 4 ∧
    (after (.subnReg 0 15) (regs [(0, 5), (15, 9)])).getV 0 = 0xFC := by decide

theorem test_shr :
    (after (.shr 0 1) (regs [(0, 4), (1, 0xFF)])).getV 0 = 2 ∧
    (after (.shr 0 0) (regs [(0, 5)])).getV 15 = 1 := by decide

theorem test_shr_vf : (after (.shr 15 0) (regs [(15, 5)])).getV 15 = 0 := by decide

theorem test_shl :
    (after (.shl 0 0) (regs [(0, 0x81)])).getV 0 = 2 ∧
    (after (.shl 0 0) (regs [(0, 0x81)])).getV 15 = 1 := by decide

theorem test_shl_vf :
    (after (.shl 15 0) (regs [(15, 0x81)])).getV 15 = 2 ∧
    (after (.shl 15 0) (regs [(15, 0x41)])).getV 15 = 0 := by decide

/-- With the byte 0xA7 drawn (R131). -/
theorem test_rnd :
    (rndWith 0xA7 0 0x0F (regs [])).getV 0 = 0x07 ∧
    (rndWith 0xFF 0 0xF0 (regs [])).getV 0 = 0xF0 := by decide

/-! ## Index and memory (95 section 2.6) -/

theorem test_ldI : (after (.ldI 0xFFF) (regs [])).i = 0x0FFF := by decide

theorem test_addI :
    (after (.addI 0) (regsI 0xFF80 [(0, 0xFF)])).i = 0x007F ∧
    (after (.addI 0) (regsI 0x0FFF [(0, 1)])).i = 0x1000 := by decide

theorem test_ldF :
    (after (.ldF 0) (regs [(0, 0x0A)])).i = 0x0032 ∧
    (after (.ldF 0) (regs [(0, 0xFF)])).i = 0x04FB := by decide

theorem test_ldB :
    (after (.ldB 0) (regsI 0x0FFD [(0, 0xFF)])).mem = [(0xFFD, 2), (0xFFE, 5), (0xFFF, 5)] ∧
    (after (.ldB 0) (regsI 0x0FFE [(0, 0xFF)])).faultCause.code = 4 := by decide

theorem test_storeRegs :
    (after (.storeRegs 1) (regsI 0x0400 [(0, 0x11), (1, 0x22), (2, 0x33)])).mem =
      [(0x400, 0x11), (0x401, 0x22)] := by decide

theorem test_storeRegs_fault :
    (after (.storeRegs 1) (regsI 0x0FFF [(0, 0x11)])).mem = [] ∧
    (after (.storeRegs 1) (regsI 0x0FFF [(0, 0x11)])).faultPc = 0x202 := by decide

theorem test_loadRegs :
    (after (.loadRegs 2) (sprite 0x300 [0x0A, 0x0B, 0x0C, 0x0D] [])).getV 2 = 0x0C ∧
    (after (.loadRegs 2) (sprite 0x300 [0x0A, 0x0B, 0x0C, 0x0D] [])).getV 3 = 0 ∧
    (after (.loadRegs 0) (regs [])).getV 0 = 0xF0 := by decide

theorem test_loadRegs_fault : (after (.loadRegs 0) (regsI 0xFFFF [])).faultCause.code = 4 := by decide

/-! ## Display (95 section 2.7) -/

theorem test_cls :
    (after .cls ((regs [(15, 1)]).setPixel 31 63 true)).pixel 31 63 = false ∧
    (after .cls ((regs [(15, 1)]).setPixel 31 63 true)).getV 15 = 1 := by decide

/-- A sprite at column 62 of the last row but one: two cells a row, the rest dropped (P5). -/
theorem test_drw_clips :
    let t := after (.drw 0 1 3) (sprite 0x300 [0xFF, 0xFF, 0xFF] [(0, 0x3E), (1, 0x1E)])
    t.pixel 30 62 = true ∧ t.pixel 31 63 = true ∧ t.pixel 30 0 = false ∧ t.pixel 0 62 = false ∧
      t.getV 15 = 0 := by decide

/-- A collision, with the row taken from the old VF. -/
theorem test_drw_collides :
    let t := after (.drw 0 15 1) ((sprite 0x300 [0x80] [(0, 2), (15, 3)]).setPixel 3 2 true)
    t.pixel 3 2 = false ∧ t.getV 15 = 1 := by decide

/-! ## Keypad and timers (95 section 2.8) -/

theorem test_skp :
    (after (.skp 0) ((regs [(0, 7)]).setKey 7 true)).pc = 0x204 ∧
    (after (.skp 0) ((regs [(0, 7)]).setKey 6 true)).pc = 0x202 ∧
    (after (.skp 0) (regs [(0, 0x10)])).faultCause.code = 5 := by decide

theorem test_sknp :
    (after (.sknp 0) ((regs [(0, 7)]).setKey 7 true)).pc = 0x202 ∧
    (after (.sknp 0) (regs [(0, 7)])).pc = 0x204 := by decide

theorem test_ldVxK_waits : (after (.ldVxK 2) (regs [])).pc = 0x200 := by decide

theorem test_ldVxK_key :
    let t := ((regs []).setKey 3 true).setKey 9 true
    (after (.ldVxK 2) t).getV 2 = 1 ∧ (after (.ldVxK 2) t).pc = 0x202 ∧
      (after (.ldVxK 2) { t with config := ⟨1, true⟩ }).getV 2 = 3 := by decide

theorem test_ldVxDt : (after (.ldVxDt 3) { regs [] with dt := 0x39 }).getV 3 = 0x39 := by decide

theorem test_ldDtVx : (after (.ldDtVx 0) (regs [(0, 0x3C)])).dt = 0x3C := by decide

theorem test_ldStVx : (after (.ldStVx 1) (regs [(1, 5)])).st = 5 := by decide

/-! ## Unrecognised opcodes, ticks, reset (95 sections 2.2, 2.9, 2.10) -/

theorem test_unrecognised :
    (after (.unrecognised8 0 1 8) (regs [])).event = .diag 0x8018 0x202 ∧
    (after (.unrecognisedE 0 0x90) (regs [])).event = .diag 0xE090 0x202 ∧
    (after (.unrecognisedF 0 0x90) (regs [])).event = .diag 0xF090 0x202 := by decide

theorem test_tick_counts_down :
    let t := State.wholeTick { State.reset with dt := 2, st := 1, config := ⟨0, false⟩ } TickInput.silent
    t.dt = 1 ∧ t.st = 0 ∧ t.event = .display Display.blank := by decide

theorem test_tick_stopped_then_quit :
    (State.wholeTick { State.reset with dt := 5 } ⟨[], some .stopped⟩).dt = 4 ∧
    (State.wholeTick { State.reset with dt := 5 } ⟨[], some .stopped⟩).pc = 0x200 ∧
    (State.wholeTick { State.reset with dt := 5 } ⟨[], some .quit⟩).dt = 5 := by decide

theorem test_reset_rom :
    (State.resetWith ⟨1, false⟩ Config.defaultFont (.bytes [0x12, 0x00]) []).mem = [(0x200, 0x12)] ∧
    (State.resetWith ⟨1, false⟩ Config.defaultFont (.bytes []) []).faultCause.code = 6 := by decide

/-- R212: a reset inside a tick, before its next instruction; one for a later place lets the instruction run. -/
theorem test_reset_inside_tick :
    (match step { live 0x300 [0x60, 0x05] with dt := 7, inbox := [resetAt (.batch 1)] } with
      | .next t => t.pc == 0x200 && t.dt == 0 && t.phase == .boundary && t.inbox == []
      | .fault _ => false
      | .refused _ => false) = true ∧
    (match step { live 0x300 [0x60, 0x05] with dt := 7, inbox := [resetAt (.batch 0)] } with
      | .next t => t.getV 0 == 5 && t.dt == 7 && t.inbox == [resetAt (.batch 0)]
      | .fault _ => false
      | .refused _ => false) = true := by decide

/-- A placed opcode runs in the very next step even where a reset was to come. -/
theorem test_placed_before_reset :
    (match step (State.withFetchWord { State.reset with inbox := [resetAt (.batch 1)] } 16 0x6005) with
      | .next t => t.getV 0 == 5
      | .fault _ => false
      | .refused _ => false) = true := by decide

/-- With no delivery no reset comes. -/
theorem no_reset_of_inbox_nil (s : State) (h : s.inbox = []) : ¬ ResetLands s := by
  simp [ResetLands, h]

/-- A reset for another place inside the tick does not come yet. -/
theorem no_reset_at_other_place (s : State) (place : Phase) (h : s.inbox = [resetAt place])
    (he : s.ended = false) (hb : s.phase ≠ .boundary) (hp : s.phase ≠ place) : ¬ ResetLands s := by
  rintro ⟨_, _, _, _, _, hi, hl⟩
  rw [h, resetAt, List.cons.injEq, HostEvent.reset.injEq] at hi
  obtain ⟨⟨rfl, -⟩, -⟩ := hi
  simp [he, hb, hp] at hl

/-! ## Witnesses: a concrete case that meets the hypotheses of each statement, clause by clause -/

/-- A state in a tick whose invariant holds and that is not the reset state. -/
def witnessState : State :=
  { live 0xFFE [0x60, 0x01] with sp := 1, stack := State.reset.stack.set 0 0x1000 }

theorem witnessState_inv : Inv witnessState where
  memory := by decide
  pcBound := by decide
  slots := by
    have h : ∀ k : Fin 12, k.val < witnessState.sp.val → 0x002 ≤ witnessState.stack[k.val].toNat ∧
        witnessState.stack[k.val].toNat ≤ 0x1000 := by decide
    exact h
  tickStart := by decide
  faultQuits := by decide
  batchRuns := by intro n _ h; cases h

theorem witness_EveryMoveKeepsInvariant :
    Inv witnessState ∧
    (match step witnessState with
      | .next _ => true
      | .fault _ => false
      | .refused _ => false) = true ∧ witnessState.ended = false :=
  ⟨witnessState_inv, by decide, by decide⟩

theorem witness_LiveSessionAlwaysMoves : Inv witnessState ∧ witnessState.ended = false :=
  ⟨witnessState_inv, by decide⟩

theorem witness_DecodeOfEncodeIsIdentity :
    (Instr.sys 0x0DF).wf = true ∧ (Instr.sys 0x000).wf = true ∧ (Instr.unrecognised8 15 15 0xF).wf = true ∧
    (Instr.unrecognisedE 0 0x9D).wf = true ∧ (Instr.unrecognisedF 15 0xFF).wf = true ∧
    (Instr.drw 15 15 15).wf = true := by decide

theorem witness_FirstMatchingTableRowIsTheDispatch :
    ((tableRows[0]?.map fun r => r.selects 0x00E0) = some true ∧
      (tableRows[2]?.map fun r => r.selects 0x00E0) = some true) ∧
    ((tableRows[10]?.map fun r => r.selects 0x8000) = some true ∧
      (tableRows[35]?.map fun r => r.selects 0x8000) = some true) ∧
    ((tableRows[25]?.map fun r => r.selects 0xE0A1) = some true ∧
      (tableRows[36]?.map fun r => r.selects 0xE0A1) = some true) ∧
    ((tableRows[34]?.map fun r => r.selects 0xFF65) = some true ∧
      (tableRows[37]?.map fun r => r.selects 0xFF65) = some true) := by decide

theorem witness_ReadReturnsLastByteWritten :
    Memory.wf [(0xFFF, 1)] = true ∧ 4095 < 4096 ∧ (0 : Nat) ≠ 4095 := by decide

theorem witness_CanonicalMemoryIsItsReads :
    Memory.wf [(0, 1), (0xFFF, 1)] = true ∧
      ∀ a, a < 4096 → Memory.read [(0, 1), (0xFFF, 1)] a = Memory.read [(0, 1), (0xFFF, 1)] a :=
  ⟨by decide, fun _ _ => rfl⟩

theorem witness_StoreIsSeenByNextFetch :
    ((regsI 0xFFE [(0, 0x12)]).mem.wf = true ∧ (regsI 0xFFE []).i.toNat + (1 : Reg).val ≤ 0xFFF ∧
      (regsI 0xFFD []).i.toNat + 2 ≤ 0xFFF) ∧
    (overlaid (regsI 0x300 []) [0x12] 0x2FF = 0x00 ∧ overlaid (regsI 0x300 []) [0x12] 0x300 = 0x12 ∧
      overlaid (regsI 0x300 []) [0x12] 0x301 = 0x00) := by decide


theorem witness_StepRunsDecodedInstruction :
    let s := live 0xFFE [0x60, 0x01]
    (s.runState = .running ∧ s.faultCause = .none ∧ s.phase = .batch (0 + 1) ∧ s.pc.toNat ≤ 0xFFE ∧
      (decode [s.mem.read s.pc.toNat, s.mem.read (s.pc.toNat + 1)]).toOption =
        some (.ldImm 0 0x01, [])) ∧ ¬ ResetLands s ∧
      ¬ ResetLands { s with inbox := [resetAt (.batch 0)] } :=
  ⟨by decide, no_reset_of_inbox_nil _ rfl,
    no_reset_at_other_place _ (.batch 0) rfl (by decide) (by decide) (by decide)⟩

theorem witness_FetchCheckRaisesPcOutOfRange :
    let s := live 0xFFF []
    (s.runState = .running ∧ s.faultCause = .none ∧ s.phase = .batch (0 + 1) ∧ s.pc.toNat > 0xFFE) ∧
      ¬ ResetLands s :=
  ⟨by decide, no_reset_of_inbox_nil _ rfl⟩

theorem witness_UnrecognisedOpcodeIsNoOpWithDiagnostic :
    let s := live 0xFFE [0x80, 0x18]
    ((s.runState = .running ∧ s.faultCause = .none ∧ s.phase = .batch (0 + 1) ∧ s.pc.toNat ≤ 0xFFE) ∧
      ¬ ResetLands s) ∧
    (s.fetchWord = 0x8018 ∧ decodeWord 0x8018 = .unrecognised8 0 1 8) ∧
    ((live 0xFFE [0xE1, 0x9F]).fetchWord = 0xE19F ∧ decodeWord 0xE19F = .unrecognisedE 1 0x9F) ∧
    ((live 0xFFE [0xF0, 0x90]).fetchWord = 0xF090 ∧ decodeWord 0xF090 = .unrecognisedF 0 0x90) :=
  ⟨⟨by decide, no_reset_of_inbox_nil _ rfl⟩, by decide, by decide, by decide⟩

theorem witness_FaultingInstructionHasNoOtherEffect :
    faultOf .ret (regs []) ≠ .none ∧ faultOf (.call 0) { regs [] with sp := 12 } ≠ .none ∧
    faultOf (.drw 0 0 1) (regsI 0x1000 []) ≠ .none ∧ faultOf (.skp 0) (regs [(0, 16)]) ≠ .none ∧
    faultOf (.drw 0 0 0) (regsI 0xFFFF []) = .none ∧ faultOf (.ldB 0) (regsI 0xFFD []) = .none := by decide

theorem witness_InstructionsNeverTouchHostState :
    (∀ x, Instr.cls ≠ .ldDtVx x) ∧ (∀ x, Instr.cls ≠ .ldStVx x) ∧ (∀ x nn, Instr.cls ≠ .rnd x nn) ∧
    (regs []).event = .none ∧ (∀ nnn, Instr.ret ≠ .call nnn) ∧ Instr.call 0 ≠ .ret :=
  ⟨fun _ h => (nomatch h), fun _ h => (nomatch h), fun _ _ h => (nomatch h), rfl,
    fun _ h => (nomatch h), fun h => (nomatch h)⟩

theorem witness_OnlyFlagWritersChangeVF :
    (writesFlag (.ldImm 14 0) = false ∧ names (.ldImm 14 0) regVF = false) ∧
    (writesFlag (.loadRegs 14) = false ∧ names (.loadRegs 14) regVF = false) ∧
    (writesFlag (.drw 15 15 1) = true ∧ names (.drw 15 15 1) regVF = false ∧
      faultOf (.drw 15 15 1) (regsI 0xFFF []) = .none) := by decide

theorem witness_ReturnPopsProgramCounter :
    ({ regs [] with sp := 12 }).sp.val ≠ 0 ∧ ({ regs [] with sp := 1 }).sp.val ≠ 0 ∧
      (regs []).sp.val = 0 := by decide

theorem witness_CallPushesReturnAddress :
    (regs []).sp.val < 12 ∧ ({ regs [] with sp := 11 }).sp.val < 12 ∧
      ({ regs [] with sp := 12 }).sp.val = 12 := by decide

theorem witness_ReturnUndoesCall :
    let s := { regs [] with sp := 11 }
    let t := after (.call 0x300) s
    s.sp.val < 12 ∧ t.sp.val = s.sp.val + 1 ∧ t.stack[s.sp.val]? = t.stack[s.sp.val]? := by decide

theorem witness_SubtractWritesFlagThenDifference :
    (0x01 : Byte) = (if ((regs [(0, 5)]).getV 0).toNat > ((regs [(0, 5)]).getV 1).toNat
      then 0x01 else 0x00) ∧ (0 : Reg) ≠ regVF ∧ (15 : Reg) = regVF := by decide

theorem witness_ReverseSubtractWritesFlagThenDifference :
    (0x00 : Byte) = (if ((regs [(0, 5)]).getV 1).toNat > ((regs [(0, 5)]).getV 0).toNat
      then 0x01 else 0x00) ∧ (0 : Reg) ≠ regVF ∧ (15 : Reg) = regVF := by decide

theorem witness_AddAndShifts : (14 : Reg) ≠ regVF ∧ (15 : Reg) = regVF := by decide

theorem witness_RandomByteIsMasked :
    (0x7F : Byte).getLsbD 7 = false ∧ (0 : Byte).getLsbD 0 = false ∧ (1 : Reg) ≠ 0 := by decide

theorem witness_DecimalDigitsAreStored :
    (regsI 0xFFD []).mem.wf = true ∧ (regsI 0xFFD []).i.toNat + 2 ≤ 0xFFF ∧
      (regsI 0xFFE []).i.toNat + 2 > 0xFFF := by decide

theorem witness_RegisterBlockIsStored :
    (regsI 0xFF0 []).mem.wf = true ∧ (regsI 0xFF0 []).i.toNat + (15 : Reg).val ≤ 0xFFF ∧
      (regsI 0x1000 []).i.toNat + (0 : Reg).val > 0xFFF := by decide

theorem witness_RegisterBlockIsLoaded :
    (regsI 0xFF0 []).i.toNat + (15 : Reg).val ≤ 0xFFF ∧ (regsI 0xFFF []).i.toNat + (1 : Reg).val > 0xFFF ∧
      (0 : Reg).val < (1 : Reg).val := by decide

theorem witness_LoadAfterStoreIsIdentity :
    (regsI 0xFF0 []).mem.wf = true ∧ (regsI 0xFF0 []).i.toNat + (15 : Reg).val ≤ 0xFFF := by decide

theorem witness_DataAccessAboveMemoryFaults :
    (regsI 0xFFE []).i.toNat + 2 > 0xFFF ∧ (regsI 0xFFF []).i.toNat + (1 : Reg).val > 0xFFF ∧
      (1 : Nibble).val > 0 ∧ (regsI 0x1000 []).i.toNat + (1 : Nibble).val - 1 > 0xFFF := by decide

/-- No row at all with I outside memory, one row at the last byte, a collision, and none. -/
theorem witness_DrawXorsSpriteCellByCell :
    ((0 : Nibble).val = 0 ∧ (regsI 0xFFFF []).i.toNat > 0xFFF) ∧
    (sprite 0xFFF [0x80] []).i.toNat + (1 : Nibble).val - 1 ≤ 0xFFF ∧
    (((sprite 0xFFF [0x80] []).setPixel 0 0 true).pixel 0 0 = true ∧
      spriteBit (sprite 0xFFF [0x80] []) 0 0 1 0 0 = true) ∧
    (∀ (r : Fin 32) (c : Fin 64), (sprite 0xFFF [0x80] []).pixel r c = true →
      spriteBit (sprite 0xFFF [0x80] []) 0 0 1 r.val c.val = false) := by
  refine ⟨by decide, by decide, by decide, ?_⟩
  intro r c h
  exact absurd h (by simp [sprite, regsI, regs, State.pixel, State.reset])

theorem witness_DrawTwiceRestoresDisplay :
    (0 : Reg) ≠ regVF ∧ (14 : Reg) ≠ regVF ∧
      (sprite 0xFFF [0x80] []).i.toNat + (1 : Nibble).val - 1 ≤ 0xFFF ∧
    ((sprite 0xFFF [0x80] []).pixel 0 0 = false ∧
      spriteBit (sprite 0xFFF [0x80] []) 0 0 1 0 0 = true) ∧
    (∀ (r : Fin 32) (c : Fin 64), (regs []).pixel r c = false →
      spriteBit (regs []) 0 0 0 r.val c.val = false) ∧
    ((after (.drw 15 15 1) (sprite 0xFFF [0x80] [])).getV 15).toNat % 64 = 0 := by
  refine ⟨by decide, by decide, by decide, by decide, ?_, by decide⟩
  intro r c _
  simp [spriteBit]


theorem witness_KeySkipsTestTheKey :
    ((regs [(0, 15)]).getV 0).toNat = (15 : Fin 16).val ∧ ((regs []).getV 0).toNat = (0 : Fin 16).val ∧
      ((regs [(0, 16)]).getV 0).toNat > 15 := by decide

theorem witness_KeyWaitPollsKeypad :
    (∀ k, (regs []).key k = false) ∧
    (((regs []).setKey 15 true).key 15 = true ∧
      ∀ j : Fin 16, j < 15 → ((regs []).setKey 15 true).key j = false) ∧
    (((regs []).setKey 0 true).key 0 = true ∧
      ∀ j : Fin 16, j < 0 → ((regs []).setKey 0 true).key j = false) := by decide

theorem witness_KeyWaitHoldsProgramCounter :
    let s := live 0x204 [0xF2, 0x0A]
    (s.runState = .running ∧ s.faultCause = .none ∧ s.phase = .batch (0 + 1) ∧ s.pc.toNat ≤ 0xFFE ∧
      s.fetchWord = encodeXNN 0xF 2 0x0A ∧ ∀ k, s.key k = false) ∧ ¬ ResetLands s :=
  ⟨by decide, no_reset_of_inbox_nil _ rfl⟩

/-- QUIT by the host, and QUIT by a fault. -/
theorem witness_EndedSessionIsFrozen :
    (let s := { State.reset with runState := .quit };
      s.runState = .quit ∧ s.inbox = []) ∧
    (let s := { (State.reset.raise .stackUnderflow) with inbox := [.tick TickInput.silent] };
      s.faultCause ≠ .none ∧ s.inbox = [.tick TickInput.silent]) := by decide

theorem witness_TickStartsWithHostInput :
    let input : TickInput := ⟨[(1, true), (1, false), (15, true)], some .stopped⟩
    let s := { State.reset with inbox := [.tick input] }
    s.runState ≠ .quit ∧ s.faultCause = .none ∧ s.phase = .boundary ∧ s.inbox = [.tick input] ∧
      lastPress input.keyEvents 1 = some false ∧ lastPress input.keyEvents 0 = none := by decide

theorem witness_EmptyInboxIsATickWithoutEvents :
    State.reset.runState ≠ .quit ∧ State.reset.faultCause = .none ∧ State.reset.phase = .boundary ∧
      State.reset.inbox = [] := by decide

theorem witness_TickEndsWithCheckPublishAndTimers :
    (let s := { State.reset with phase := .batch 0, pc := 0x1000 };
      (s.runState ≠ .quit ∧ s.faultCause = .none ∧ s.phase = .batch 0 ∧ s.pc.toNat ≥ 0x1000) ∧
        ¬ ResetLands s) ∧
    (let s := { State.reset with phase := .batch 0, pc := 0x0FFF };
      (s.phase = .batch 0 ∧ s.pc.toNat < 0x1000) ∧ ¬ ResetLands s) :=
  ⟨⟨by decide, no_reset_of_inbox_nil _ rfl⟩, by decide, no_reset_of_inbox_nil _ rfl⟩


theorem witness_MovesOfATickAreTheTickSequence :
    (let s := { State.reset with inbox := [.tick TickInput.silent, resetAt (.batch 2)] };
      (s.runState ≠ .quit ∧ s.faultCause = .none ∧ s.phase = .boundary ∧ s.config.ipt = 1 ∧
        s.inbox = .tick TickInput.silent :: [resetAt (.batch 2)]) ∧
      ∀ left config font rom later, left ≤ s.config.ipt →
        [resetAt (.batch 2)] ≠ .reset (.batch left) config font rom :: later) ∧
    (State.reset.phase = .boundary ∧ State.reset.inbox = []) := by
  refine ⟨⟨by decide, ?_⟩, rfl, rfl⟩
  intro left config font rom later hl h
  rw [resetAt, List.cons.injEq, HostEvent.reset.injEq, Phase.batch.injEq] at h
  obtain ⟨⟨rfl, -⟩, -⟩ := h
  exact absurd hl (by decide)


theorem witness_OnlyResetLeavesQuitOrChangesConfiguration :
    (let s := { State.reset with runState := .quit, inbox := [.tick TickInput.silent] };
      step s = .next { s with inbox := [], event := .none } ∧ ¬ ResetLands s ∧ s.runState = .quit) ∧
    (let s := { live 0x300 [0x60, 0x05] with inbox := [resetAt (.batch 0)] };
      ¬ ResetLands s ∧ s.ended = false) :=
  ⟨⟨rfl, by simp [ResetLands], rfl⟩,
    no_reset_at_other_place _ (.batch 0) rfl (by decide) (by decide) (by decide), by decide⟩


theorem witness_ResetBuildsTheState :
    Rom.loads (.bytes [0x00]) = true ∧ Rom.loads (.bytes (List.replicate 3584 0x60)) = true ∧
      Rom.loads (.bytes []) = false ∧ Rom.loads (.bytes (List.replicate 3585 0x60)) = false ∧
      Rom.loads .unreadable = false := by
  refine ⟨by decide, ?_, by decide, ?_, by decide⟩ <;>
    (simp only [Rom.loads, List.length_replicate]; decide)

theorem witness_ResetDeliveryStartsNewSession :
    ({ State.reset with inbox := [resetAt (.batch 3)] }.inbox = [resetAt (.batch 3)] ∧
      State.reset.phase = .boundary) ∧
    ({ State.reset with runState := .quit, phase := .batch 2 }).ended = true ∧
    (let s := { State.reset with phase := .batch 3, inbox := [resetAt (.batch 3)] };
      s.ended = false ∧ s.phase ≠ .boundary ∧ s.phase = .batch 3) := by decide


theorem witness_SelfJumpChangesNothing :
    let s := live 0x200 [0x12, 0x00]
    (s.runState = .running ∧ s.faultCause = .none ∧ s.phase = .batch (0 + 1) ∧ s.pc.toNat ≤ 0xFFE ∧
      (0x200 : Imm12).toNat = s.pc.toNat ∧ s.fetchWord = encodeNNN 0x1 0x200) ∧ ¬ ResetLands s :=
  ⟨by decide, no_reset_of_inbox_nil _ rfl⟩

theorem witness_PlacedWordIsTheNextInstruction :
    State.reset.mem.wf = true ∧ ({ State.reset with pc := 0xFFE }).pc.toNat ≤ 0xFFE ∧ 65535 < 65536 := by
  decide

end Sys2Proof.Tests
end

/-! SUPPORT. Every move keeps the invariant (spec/10_state.md R35): what one instruction can do, case by case,
then one preservation rule per operation, then the moves of `step_moved`. -/

namespace Sys2Proof.Machine

/-! ## What one instruction can do -/

/-- The ways an instruction answers a next state; `s` is the state after the fetch (R92). -/
inductive Executed (s t : State) : Prop where
  /-- registers, timers, the grid, the count of draws or the event are written: PC, memory and stack stay -/
  | computes {v : Vector Byte 16} {i : Word} {dt st : Byte} {disp : Display} {rndDraws : Nat} {event : Event}
      (result : t = { s with
        v := v, i := i, dt := dt, st := st, disp := disp, rndDraws := rndDraws, event := event })
  /-- bytes are stored -/
  | stores (a : Nat) (bytes : List Byte) (result : t = { s with mem := s.mem.writeBytes a bytes })
  /-- a jump to NNN plus a byte: V0 for BNNN, nothing for the others -/
  | jumps (offset : Byte) (nnn : Imm12) (result : t = s.setPc (offset.setWidth 16 + addrOfImm nnn))
  /-- a skip that is taken -/
  | skips (result : t = s.setPc (s.pc + 2))
  /-- FX0A with no key down goes back to its own address -/
  | waits (result : t = s.setPc (s.pc - 2))
  /-- a call -/
  | calls (nnn : Imm12) (room : s.sp.val < 12) (result : t = (s.push s.pc room).setPc (addrOfImm nnn))
  /-- a return -/
  | returns (used : s.sp.val ≠ 0) (result : t = s.popPc used)
  /-- a fault -/
  | faults (cause : FaultCause) (result : t = s.raise cause)

theorem executed_skipIf (s : State) (c : Bool) : Executed s (s.skipIf c) := by
  cases c with
  | true => exact .skips rfl
  | false => exact .computes rfl

/-- A jump to NNN is a jump to NNN plus 0. -/
theorem executed_setPc_addrOfImm (s : State) (nnn : Imm12) : Executed s (s.setPc (addrOfImm nnn)) :=
  .jumps 0 nnn (by simp)

theorem executed_of_orRaise {ok : Bool} {cause : FaultCause} {s body t : State}
    (hb : Executed s body) (h : orRaise ok cause s body = .next t) : Executed s t := by
  cases ok with
  | true => obtain rfl : body = t := Host.Outcome.next.inj h; exact hb
  | false => exact .faults cause (Host.Outcome.next.inj h).symm

theorem executed_of_execRet {s t : State} (h : execRet s = .next t) : Executed s t := by
  unfold execRet at h
  split at h
  · next used => exact .returns used (Host.Outcome.next.inj h).symm
  · exact .faults .stackUnderflow (Host.Outcome.next.inj h).symm

theorem executed_of_execCall {nnn : Imm12} {s t : State} (h : execCall nnn s = .next t) :
    Executed s t := by
  unfold execCall at h
  split at h
  · next room => exact .calls nnn room (Host.Outcome.next.inj h).symm
  · exact .faults .stackOverflow (Host.Outcome.next.inj h).symm

/-- FX0A that takes a key leaves PC at the next instruction: it steps back and on again. -/
theorem executed_of_execLdVxK {x : Reg} {s t : State} (h : execLdVxK x s = .next t) : Executed s t := by
  simp only [execLdVxK] at h
  split at h
  · exact .waits (Host.Outcome.next.inj h).symm
  · next k _ =>
    have hpc : s.pc - 2 + 2 = s.pc := BitVec.sub_add_cancel s.pc 2
    simp only [State.setPc_pc, hpc, Host.Outcome.next.injEq] at h
    exact .computes h.symm

/-- Every next state of an instruction is one of these. -/
theorem exec_executed (i : Instr) (s t : State) (h : exec i s = .next t) : Executed s t := by
  cases i with
  | ret => exact executed_of_execRet h
  | call nnn => exact executed_of_execCall h
  | ldVxK x => exact executed_of_execLdVxK h
  | sys nnn | jp nnn => exact Host.Outcome.next.inj h ▸ executed_setPc_addrOfImm s nnn
  | jpV0 nnn => exact .jumps (s.getV regV0) nnn (Host.Outcome.next.inj h).symm
  | seImm | sneImm | seReg | sneReg => exact Host.Outcome.next.inj h ▸ executed_skipIf s _
  | skp | sknp => exact executed_of_orRaise (executed_skipIf s _) h
  | drw => exact executed_of_orRaise (.computes (State.drawSprite_frame (s.setVF 0x00) _ _ _)) h
  | ldB | storeRegs => exact executed_of_orRaise (.stores _ _ rfl) h
  | loadRegs => exact executed_of_orRaise (.computes rfl) h
  | cls | ldImm | addImm | ldReg | orReg | andReg | xorReg | addReg | subReg | shr | subnReg | shl | rnd
  | ldI | addI | ldF | ldVxDt | ldDtVx | ldStVx | unrecognised8 | unrecognisedE | unrecognisedF =>
    exact .computes (Host.Outcome.next.inj h).symm

/-! ## Bounds on PC -/

theorem addrOfImm_toNat (nnn : Imm12) : (addrOfImm nnn).toNat = nnn.toNat := by
  have := nnn.isLt
  simp only [addrOfImm, BitVec.toNat_setWidth]
  omega

theorem toNat_byte_add_addrOfImm (b : Byte) (nnn : Imm12) :
    (b.setWidth 16 + addrOfImm nnn).toNat = b.toNat + nnn.toNat := by
  have := b.isLt
  have := nnn.isLt
  simp only [BitVec.toNat_add, BitVec.toNat_setWidth, addrOfImm_toNat]
  omega

end Sys2Proof.Machine

namespace Sys2Proof.Claims

open Sys2Proof.Machine

/-! ## What the operations keep of the invariant -/

/-- The fields of which the invariant says nothing may differ; all others are equal. -/
def SameForInv (s t : State) : Prop :=
  t = { s with
    v := t.v, i := t.i, dt := t.dt, st := t.st, disp := t.disp, keys := t.keys, faultPc := t.faultPc
    config := t.config, inbox := t.inbox, rndDraws := t.rndDraws, event := t.event }

theorem Inv.of_sameForInv {s t : State} (hs : Inv s) (h : SameForInv s t) : Inv t := by
  rw [h]
  exact ⟨hs.memory, hs.pcBound, hs.slots, hs.tickStart, hs.faultQuits, hs.batchRuns⟩

theorem Inv.writeBytes {s : State} (hs : Inv s) (a : Nat) (bytes : List Byte) :
    Inv { s with mem := s.mem.writeBytes a bytes } :=
  { hs with memory := Memory.writeBytes_wf bytes s.mem a hs.memory }

/-- A fault ends the session, so no bound on PC is due at the start of a tick. -/
theorem Inv.raise {s : State} (hs : Inv s) (cause : FaultCause) : Inv (s.raise cause) :=
  { hs with
    tickStart := fun _ he => absurd rfl ((State.ended_eq_false_iff _).mp he).1
    faultQuits := fun _ => rfl
    batchRuns := fun _ _ => nofun }

/-- Inside a tick PC may be anything up to 0x10FE. -/
theorem Inv.setPc {s : State} (hs : Inv s) (hp : s.phase ≠ .boundary) {a : Word} (ha : a.toNat ≤ 0x10FE) :
    Inv (s.setPc a) :=
  { hs with
    pcBound := ha
    tickStart := fun hb => absurd hb hp }

theorem Inv.push {s : State} (hs : Inv s) {a : Word} (ha : 0x002 ≤ a.toNat ∧ a.toNat ≤ 0x1000)
    (room : s.sp.val < 12) : Inv (s.push a room) where
  memory := hs.memory
  pcBound := hs.pcBound
  slots k hk := by
    simp only [State.push, Vector.getElem_set] at hk ⊢
    split
    · exact ha
    · exact hs.slots k (by omega)
  tickStart := hs.tickStart
  faultQuits := hs.faultQuits
  batchRuns := hs.batchRuns

/-- A return goes to an address in a slot in use, and the slots still in use are among the old ones. -/
theorem Inv.popPc {s : State} (hs : Inv s) (hp : s.phase ≠ .boundary) (used : s.sp.val ≠ 0) :
    Inv (s.popPc used) where
  memory := hs.memory
  pcBound := by
    have htop := (hs.slots ⟨s.sp.val - 1, by omega⟩ (by simp only; omega)).2
    exact le_trans htop (by decide)
  slots k hk := hs.slots k (by simp only [State.popPc] at hk; omega)
  tickStart hb := absurd hb hp
  faultQuits := hs.faultQuits
  batchRuns := hs.batchRuns

/-! ## What an instruction keeps -/

/-- The state after a fetch satisfies the invariant. -/
theorem Inv.fetched {s : State} (hs : Inv s) (left : Nat) (hr : s.runState = .running)
    (hpc : (s.pc + 2).toNat ≤ 0x1000) : Inv (s.fetched left) where
  memory := hs.memory
  pcBound := le_trans hpc (by decide)
  slots := hs.slots
  tickStart := nofun
  faultQuits := hs.faultQuits
  batchRuns _ _ h := by simp [State.fetched, hr] at h

/-- Inside a tick, with PC where a fetch leaves it, every instruction keeps the invariant. -/
theorem Inv.executed {s t : State} (hs : Inv s) (hp : s.phase ≠ .boundary)
    (hpc : 0x002 ≤ s.pc.toNat ∧ s.pc.toNat ≤ 0x1000) (h : Executed s t) : Inv t := by
  cases h with
  | computes result => subst result; exact hs.of_sameForInv rfl
  | stores a bytes result => subst result; exact hs.writeBytes a bytes
  | jumps offset nnn result =>
    subst result
    have := offset.isLt
    have := nnn.isLt
    exact hs.setPc hp (by rw [toNat_byte_add_addrOfImm]; omega)
  | skips result => subst result; exact hs.setPc hp (by bv_omega)
  | waits result => subst result; exact hs.setPc hp (by bv_omega)
  | calls nnn room result =>
    subst result
    have := nnn.isLt
    exact (hs.push hpc room).setPc hp (by rw [addrOfImm_toNat]; omega)
  | returns used result => subst result; exact hs.popPc hp used
  | faults cause result => subst result; exact hs.raise cause

/-- A fetch that passes its check leaves PC at 0x002 to 0x1000 (R91, R92). -/
theorem fetched_pc_bounds {s : State} (left : Nat) (h : s.canFetch = true) :
    0x002 ≤ (s.fetched left).pc.toNat ∧ (s.fetched left).pc.toNat ≤ 0x1000 := by
  have hpc : s.pc.toNat ≤ 0xFFE := of_decide_eq_true h
  simp only [State.fetched]
  constructor <;> bv_omega

/-! ## What the moves of the tick sequence and a reset keep -/

/-- Step (a) of a tick changes the keys and the run state, which is free between two ticks (R186). -/
theorem Inv.applyInput {s : State} (hs : Inv s) (alive : s.ended = false) (place : s.phase = .boundary)
    (input : TickInput) : Inv (s.applyInput input) := by
  have hf : s.faultCause = .none := ((State.ended_eq_false_iff s).mp alive).2
  rw [State.applyInput_frame]
  exact { hs with
    tickStart := fun hb _ => hs.tickStart hb alive
    faultQuits := fun h => absurd hf h
    batchRuns := fun _ hn => nomatch place.symm.trans hn }

/-- A batch begins with steps left only if the machine runs (R192). -/
theorem Inv.beginBatch {s : State} (hs : Inv s) : Inv { s with phase := .batch s.batchSize } :=
  { hs with
    tickStart := nofun
    batchRuns := fun _ hn (h : s.runState = .stopped) => by simp [State.batchSize, h] at hn }

theorem Inv.beginTick {s : State} (hs : Inv s) (alive : s.ended = false) (place : s.phase = .boundary)
    (input : TickInput) : Inv (s.beginTick input) := by
  have hemit : Inv (s.emit .none) := hs.of_sameForInv rfl
  have hinput : Inv ((s.emit .none).applyInput input) := hemit.applyInput alive place input
  simp only [State.beginTick]
  split
  · exact hinput
  · exact hinput.beginBatch

/-- A tick ends with PC inside memory, or with a fault (R188). -/
theorem Inv.endTick {s : State} (hs : Inv s) : Inv s.endTick := by
  unfold State.endTick
  split
  · exact hs.raise .pcOutOfRange
  · next hpc =>
    exact { hs with
      tickStart := fun _ _ => Nat.le_of_lt_succ (Nat.lt_of_not_ge hpc)
      batchRuns := nofun }

theorem inv_reset : Inv State.reset where
  memory := Memory.reset_wf
  pcBound := by decide
  slots := nofun
  tickStart := by decide
  faultQuits h := absurd rfl h
  batchRuns := nofun

/-- A reset gives a state of the invariant whatever the ROM, one that does not load among them. -/
theorem inv_resetWith (config : SessionConfig) (font : Font) (rom : Rom) (inbox : List HostEvent) :
    Inv (State.resetWith config font rom inbox) := by
  have hbase : Inv (State.resetBase config font inbox) :=
    (inv_reset.writeBytes 0 font.toList).of_sameForInv rfl
  unfold State.resetWith
  split
  · exact hbase.writeBytes _ _
  · exact hbase.raise .romLoadFailed

theorem inv_restart (s : State) (config : SessionConfig) (font : Font) (rom : Rom)
    (inbox : List HostEvent) : Inv (s.restart config font rom inbox) :=
  (inv_resetWith config font rom inbox).of_sameForInv rfl

/-- Settles O56, by the cases of `step_moved` and, for the move that runs an instruction, those of
`exec_executed`. -/
theorem everyMoveKeepsInvariant : Obligations.EveryMoveKeepsInvariant := by
  intro s t hs h
  cases step_moved s t h with
  | ignoredTick input rest ended delivery result => subst result; exact hs.of_sameForInv rfl
  | reset place config font rom rest delivery lands result =>
    subst result; exact inv_restart s config font rom rest
  | tickStarts input rest alive place delivery result =>
    have hs' : Inv { s with inbox := rest } := hs.of_sameForInv rfl
    subst result; exact hs'.beginTick alive place input
  | tickEnds alive place stays result => subst result; exact hs.endTick
  | fetchFault left alive running place stays outside result =>
    have hs' : Inv { s with phase := .batch left } :=
      { hs with tickStart := nofun, batchRuns := fun _ _ => by simp [running] }
    subst result; exact hs'.raise .pcOutOfRange
  | instruction left alive running place stays inside result =>
    have hpc := fetched_pc_bounds left inside
    exact (hs.fetched left running hpc.2).executed nofun hpc (exec_executed _ _ t result)

end Sys2Proof.Claims

/-! SUPPORT. What a block store leaves for the next fetch (spec/20_memory.md R57, R59, R61), and the sample
opcodes of the decode table (spec/95_test_vectors.md 2.1). -/

namespace Sys2Proof

/-- The byte at the lower address is the high one; the bytes after the two are left over (R53, R70). -/
@[simp] theorem decode_cons_cons (hi lo : Byte) (rest : List Byte) :
    decode (hi :: lo :: rest) = .ok (decodeWord (wordOfBytes hi lo), rest) := rfl

end Sys2Proof

namespace Sys2Proof.Machine

/-- Any byte after the store of a block that lies in memory: the one stored there, else the old one. -/
theorem Memory.read_writeBytes (m : Memory) (a c : Nat) (bytes : List Byte) (hm : m.wf = true)
    (hl : a + bytes.length ≤ 4096) :
    (m.writeBytes a bytes).read c = if a ≤ c then bytes.getD (c - a) (m.read c) else m.read c := by
  by_cases hc : a ≤ c ∧ c - a < bytes.length
  · obtain ⟨hac, hk⟩ := hc
    have hread := Memory.read_writeBytes_inside bytes m a (c - a) bytes[c - a] hm hl
      (List.getElem?_eq_getElem hk)
    rw [Nat.add_sub_cancel' hac] at hread
    rw [if_pos hac, hread, List.getD_eq_getElem _ _ hk]
  · rw [Memory.read_writeBytes_outside bytes m a c (by omega)]
    split
    · exact (List.getD_eq_default _ _ (by omega)).symm
    · rfl

@[simp] theorem length_decimalDigits (b : Byte) : (decimalDigits b).length = 3 := rfl

/-- FX55 whose block lies in memory completes (R144). -/
theorem exec_storeRegs_of_inRange (x : Reg) (s : State) (h : s.i.toNat + x.val ≤ 0xFFF) :
    exec (.storeRegs x) s = .next { s with mem := s.mem.writeBytes (s.dataAddr 0) (s.regBlock x) } := by
  simp only [exec, execStoreRegs, (s.rangeOk_succ_iff x.val).mpr h, orRaise_true]

/-- FX33 whose three bytes lie in memory completes (R143). -/
theorem exec_ldB_of_inRange (x : Reg) (s : State) (h : s.i.toNat + 2 ≤ 0xFFF) :
    exec (.ldB x) s =
      .next { s with mem := s.mem.writeBytes (s.dataAddr 0) (decimalDigits (s.getV x)) } := by
  simp only [exec, execLdB, (s.rangeOk_succ_iff 2).mpr h, orRaise_true]

end Sys2Proof.Machine

namespace Sys2Proof.Claims

open Sys2Proof.Machine

/-- The fetch after a store at I is made of the two bytes at PC, each on its own stored or old (R61). -/
theorem fetchWord_writeBytes (s : State) (bytes : List Byte) (hm : s.mem.wf = true)
    (hl : s.i.toNat + bytes.length ≤ 4096) :
    State.fetchWord { s with mem := s.mem.writeBytes (s.dataAddr 0) bytes } =
      wordOfBytes (overlaid s bytes s.pc.toNat) (overlaid s bytes (s.pc.toNat + 1)) := by
  have hread (c : Nat) : (s.mem.writeBytes (s.dataAddr 0) bytes).read c = overlaid s bytes c :=
    Memory.read_writeBytes s.mem s.i.toNat c bytes hm hl
  simp only [State.fetchWord, hread]

/-- Settles O8: both stores complete when in range, and `fetchWord_writeBytes` says what they leave. -/
theorem storeIsSeenByNextFetch : Obligations.StoreIsSeenByNextFetch := by
  intro x s hm
  constructor
  · intro h
    have hlen : (s.regBlock x).length = x.val + 1 := s.length_regBlock x
    exact ⟨_, exec_storeRegs_of_inRange x s h, rfl, fetchWord_writeBytes s _ hm (by omega)⟩
  · intro h
    have hlen : (decimalDigits (s.getV x)).length = 3 := length_decimalDigits _
    exact ⟨_, exec_ldB_of_inRange x s h, rfl, fetchWord_writeBytes s _ hm (by omega)⟩

/-- Settles O4: each opcode is evaluated, the bytes of S1 as the opcode 0x6005 (R53). -/
theorem sampleOpcodesDecode : Obligations.SampleOpcodesDecode := by
  have hbytes : decode [0x60, 0x05, 0x70, 0x03] = .ok (.ldImm 0 0x05, [0x70, 0x03]) := by
    rw [decode_cons_cons, show decodeWord (wordOfBytes 0x60 0x05) = .ldImm 0 0x05 by decide]
  refine ⟨?_, ?_, ?_, ?_, ?_, ?_, ?_, ?_, ?_, ?_, ?_, ?_, hbytes⟩ <;> decide

end Sys2Proof.Claims

/-! SUPPORT. The opcode table against the two-level dispatch (spec/30_encoding.md R82, R85): what each mask
asks of an opcode's fields, the first matching row among the rows of one category, and which rows can overlap. -/

namespace Sys2Proof

/-! ## Masks as conditions on fields (R71, R82) -/

/-- The opcode as its category and its low 12 bits. -/
theorem toNat_eq_fields (w : Word) : w.toNat = (fieldC w).val * 4096 + (fieldNNN w).toNat := by
  rw [fieldC_val, fieldNNN_toNat]
  omega

theorem and_F000_toNat (w : Word) : (w &&& 0xF000#16).toNat = (fieldC w).val * 4096 := by
  have hc := (fieldC w).isLt
  refine (congrArg BitVec.toNat (and_F000 w)).trans ?_
  rw [BitVec.toNat_ofNat, Nat.mod_eq_of_lt (by omega)]

/-- Masking with the category and a lower field `m`, whose value is `k`. -/
theorem and_category_or_toNat {w m : Word} {k : Nat} (hk : k < 4096) (hm : w &&& m = BitVec.ofNat 16 k) :
    (w &&& (0xF000#16 ||| m)).toNat = (fieldC w).val * 4096 + k := by
  rw [Laws.TableRow.and_or w 0xF000#16 m _ _ rfl hm, BitVec.toNat_or, and_F000_toNat,
    BitVec.toNat_ofNat, Nat.mod_eq_of_lt (by omega), Nat.mul_comm]
  exact (Nat.two_pow_add_eq_or_of_lt (i := 12) hk (fieldC w).val).symm

theorem and_F00F_toNat (w : Word) :
    (w &&& 0xF00F#16).toNat = (fieldC w).val * 4096 + (fieldN w).val :=
  and_category_or_toNat (lt_trans (fieldN w).isLt (by decide)) (and_000F w)

theorem and_F0FF_toNat (w : Word) :
    (w &&& 0xF0FF#16).toNat = (fieldC w).val * 4096 + (fieldNN w).toNat :=
  and_category_or_toNat (lt_trans (fieldNN w).isLt (by decide)) (and_00FF w)

/-- A row with mask 0xF000 looks at the category. -/
theorem selects_F000_iff (p w : Word) (build : Word → Instr) :
    TableRow.selects ⟨0xF000#16, p, build⟩ w = true ↔ (fieldC w).val * 4096 = p.toNat := by
  rw [TableRow.selects_iff, ← BitVec.toNat_inj, and_F000_toNat]

/-- A row with mask 0xF00F looks at the category and N. -/
theorem selects_F00F_iff (p w : Word) (build : Word → Instr) :
    TableRow.selects ⟨0xF00F#16, p, build⟩ w = true ↔
      (fieldC w).val = p.toNat / 4096 ∧ (fieldN w).val = p.toNat % 4096 := by
  rw [TableRow.selects_iff, ← BitVec.toNat_inj, and_F00F_toNat]
  dsimp only
  omega

/-- A row with mask 0xF0FF looks at the category and NN. -/
theorem selects_F0FF_iff (p w : Word) (build : Word → Instr) :
    TableRow.selects ⟨0xF0FF#16, p, build⟩ w = true ↔
      (fieldC w).val = p.toNat / 4096 ∧ (fieldNN w).toNat = p.toNat % 4096 := by
  have hnn := (fieldNN w).isLt
  rw [TableRow.selects_iff, ← BitVec.toNat_inj, and_F0FF_toNat]
  dsimp only
  omega

/-- A row with mask 0xFFFF looks at the category and NNN, that is at the whole opcode. -/
theorem selects_FFFF_iff (p w : Word) (build : Word → Instr) :
    TableRow.selects ⟨0xFFFF#16, p, build⟩ w = true ↔
      (fieldC w).val = p.toNat / 4096 ∧ (fieldNNN w).toNat = p.toNat % 4096 := by
  have hnnn := (fieldNNN w).isLt
  have hmask : w &&& 0xFFFF#16 = w := BitVec.and_allOnes
  rw [TableRow.selects_iff, hmask, ← BitVec.toNat_inj, toNat_eq_fields]
  dsimp only
  omega

/-! ## The first matching row (R85) -/

/-- What the first of `rows` that selects the opcode builds. -/
def firstMatch (rows : List TableRow) (w : Word) : Option Instr :=
  (rows.find? fun r => r.selects w).map fun r => r.build w

theorem firstMatch_cons (r : TableRow) (rows : List TableRow) (w : Word) :
    firstMatch (r :: rows) w = if r.selects w = true then some (r.build w) else firstMatch rows w := by
  cases h : r.selects w <;> simp [firstMatch, h]

/-- The rows whose pattern has the category `c`, in the table's order. -/
def categoryRows (c : Nat) : List TableRow :=
  tableRows.filter fun r => (fieldC r.pattern).val == c

/-- Every row's mask takes in the whole category. -/
theorem tableRows_mask_category : ∀ r ∈ tableRows, r.mask &&& 0xF000#16 = 0xF000#16 := by
  simp [tableRows, tableRows1, tableRows2, tableRows3]

/-- A row selects opcodes of its own category only. -/
theorem fieldC_pattern_of_selects {r : TableRow} (hr : r ∈ tableRows) {w : Word}
    (h : r.selects w = true) : (fieldC r.pattern).val = (fieldC w).val := by
  have hand : r.pattern &&& 0xF000#16 = w &&& 0xF000#16 := by
    rw [← (r.selects_iff w).mp h, BitVec.and_assoc, tableRows_mask_category r hr]
  have hcat := congrArg BitVec.toNat hand
  rw [and_F000_toNat, and_F000_toNat] at hcat
  omega

/-- First level of the dispatch (R74): the rows of other categories play no part. -/
theorem decodeByTable_eq_firstMatch (w : Word) :
    decodeByTable w = firstMatch (categoryRows (fieldC w).val) w := by
  have hfind : (tableRows.find? fun r => r.selects w) =
      (categoryRows (fieldC w).val).find? fun r => r.selects w := by
    rw [categoryRows, List.find?_filter]
    refine List.find?_congr fun r hr => ?_
    cases h : r.selects w
    · simp
    · simp [fieldC_pattern_of_selects hr h]
  rw [decodeByTable, hfind, firstMatch]

/-- A category of one row (R74). -/
theorem decodeByTable_of_single_row {w p : Word} {c : Nat} {build : Word → Instr}
    (hc : (fieldC w).val = c) (hrows : categoryRows c = [⟨0xF000#16, p, build⟩])
    (hp : c * 4096 = p.toNat) : decodeByTable w = some (build w) := by
  subst hc
  rw [decodeByTable_eq_firstMatch, hrows, firstMatch_cons, if_pos ((selects_F000_iff p w build).mpr hp)]

/-- Category 0x0: 00E0 and 00EE come before 0NNN (R75). -/
theorem decodeByTable_category0 {w : Word} (hc : (fieldC w).val = 0x0) :
    decodeByTable w = some (decode0 w) := by
  rw [decodeByTable_eq_firstMatch, hc, show categoryRows 0x0 = tableRows1.take 3 from rfl]
  simp only [decode0, ← BitVec.toNat_inj]
  split_ifs <;> simp_all [tableRows1, firstMatch_cons, selects_FFFF_iff, selects_F000_iff]

/-- Category 0x8: the nine 8XY* rows come before the catch-all row (R76). -/
theorem decodeByTable_category8 {w : Word} (hc : (fieldC w).val = 0x8) :
    decodeByTable w = some (decode8 w) := by
  rw [decodeByTable_eq_firstMatch, hc,
    show categoryRows 0x8 = tableRows2.take 9 ++ (tableRows3.drop 11).take 1 from rfl]
  unfold decode8
  split <;> simp_all [tableRows2, tableRows3, firstMatch_cons, selects_F00F_iff, selects_F000_iff]

/-- Category 0xE: EX9E and EXA1 come before the catch-all row (R77). -/
theorem decodeByTable_categoryE {w : Word} (hc : (fieldC w).val = 0xE) :
    decodeByTable w = some (decodeE w) := by
  rw [decodeByTable_eq_firstMatch, hc,
    show categoryRows 0xE = tableRows3.take 2 ++ (tableRows3.drop 12).take 1 from rfl]
  unfold decodeE
  split <;> simp_all [tableRows3, firstMatch_cons, selects_F0FF_iff, selects_F000_iff]

/-- Category 0xF: the nine FX** rows come before the catch-all row (R78). -/
theorem decodeByTable_categoryF {w : Word} (hc : (fieldC w).val = 0xF) :
    decodeByTable w = some (decodeF w) := by
  rw [decodeByTable_eq_firstMatch, hc,
    show categoryRows 0xF = (tableRows3.drop 2).take 9 ++ tableRows3.drop 13 from rfl]
  unfold decodeF
  split <;> simp_all [tableRows3, firstMatch_cons, selects_F0FF_iff, selects_F000_iff]

/-- A decoder that takes the first matching row is the two-level dispatch (R74, R85). -/
theorem decodeByTable_eq_decodeWord (w : Word) : decodeByTable w = some (decodeWord w) := by
  have hlt := (fieldC w).isLt
  unfold decodeWord
  split
  case h_1 hc => exact decodeByTable_category0 hc
  case h_9 hc => exact decodeByTable_category8 hc
  case h_15 hc => exact decodeByTable_categoryE hc
  case h_16 =>
    have hc : (fieldC w).val = 0xF := by
      simp only [imp_false] at *
      omega
    exact decodeByTable_categoryF hc
  all_goals
    next hc => exact decodeByTable_of_single_row hc rfl rfl

/-! ## Overlaps (R85) -/

/-- Two rows that select one opcode agree on the bits that both look at. -/
theorem pattern_and_mask_of_selects {p q : TableRow} {w : Word} (hp : p.selects w = true)
    (hq : q.selects w = true) : p.pattern &&& q.mask = q.pattern &&& p.mask := by
  rw [← (p.selects_iff w).mp hp, ← (q.selects_iff w).mp hq, BitVec.and_assoc, BitVec.and_assoc,
    BitVec.and_comm p.mask]

/-- The pairs of rows that agree on those bits, by their places: no opcode occurs here, so the 38 rows are
compared with one another. -/
theorem places_of_pattern_and_mask : ∀ a b : Fin 38, a < b →
    tableRows[a].pattern &&& tableRows[b].mask = tableRows[b].pattern &&& tableRows[a].mask →
      (b.val = 2 ∧ a.val < 2) ∨ (b.val = 35 ∧ 10 ≤ a.val ∧ a.val ≤ 18) ∨
      (b.val = 36 ∧ 24 ≤ a.val ∧ a.val ≤ 25) ∨ (b.val = 37 ∧ 26 ≤ a.val ∧ a.val ≤ 34) := by
  decide

end Sys2Proof

namespace Sys2Proof.Claims

/-- Settles O3: the first row by `decodeByTable_eq_decodeWord`; an opcode two rows select makes their patterns
agree where both masks look, and `places_of_pattern_and_mask` lists the pairs that do. -/
theorem firstMatchingTableRowIsTheDispatch : Obligations.FirstMatchingTableRowIsTheDispatch := by
  refine ⟨decodeByTable_eq_decodeWord, ?_⟩
  intro w a b p q hab ha hb hp hq
  obtain ⟨_, rfl⟩ := List.getElem?_eq_some_iff.mp ha
  obtain ⟨_, rfl⟩ := List.getElem?_eq_some_iff.mp hb
  exact places_of_pattern_and_mask a b hab (pattern_and_mask_of_selects hp hq)

end Sys2Proof.Claims

/-! SUPPORT. The instruction cycle (spec/40_dispatch_cycle.md R90 to R97): the step of a batch, opcodes given
back by encoding, and what each instruction may write where it completes and where it faults. -/

namespace Sys2Proof

/-! ## Encoding gives the opcode back (R72, R81) -/

/-- Format XYN, from the fields of an opcode. -/
theorem encodeXYN_of_fields {w : Word} {c n : Nibble} (hc : (fieldC w).val = c.val)
    (hn : (fieldN w).val = n.val) : encodeXYN c (fieldX w) (fieldY w) n = w := by
  apply BitVec.eq_of_toNat_eq
  rw [encodeXYN_toNat, ← hc, ← hn, fieldC_val, fieldX_val, fieldY_val, fieldN_val]
  omega

/-- Format XNN, from the fields of an opcode. -/
theorem encodeXNN_of_fields {w : Word} {c : Nibble} {nn : Byte} (hc : (fieldC w).val = c.val)
    (hnn : (fieldNN w).toNat = nn.toNat) : encodeXNN c (fieldX w) nn = w := by
  apply BitVec.eq_of_toNat_eq
  rw [encodeXNN_toNat, ← hc, ← hnn, fieldC_val, fieldX_val, fieldNN_toNat]
  omega

/-- Format NNN, from the fields of an opcode. -/
theorem encodeNNN_of_fields {w : Word} {c : Nibble} {nnn : Imm12} (hc : (fieldC w).val = c.val)
    (hnnn : fieldNNN w = nnn) : encodeNNN c nnn = w := by
  apply BitVec.eq_of_toNat_eq
  rw [encodeNNN_toNat, ← hnnn, ← hc, toNat_eq_fields w]

theorem encodeWord_decode0 {w : Word} (hc : (fieldC w).val = 0x0) : encodeWord (decode0 w) = w := by
  unfold decode0
  split_ifs with hcls hret
  · exact encodeNNN_of_fields hc hcls
  · exact encodeNNN_of_fields hc hret
  · exact encodeNNN_of_fields hc rfl

theorem encodeWord_decode8 {w : Word} (hc : (fieldC w).val = 0x8) : encodeWord (decode8 w) = w := by
  unfold decode8
  split
  case h_10 => exact encodeXYN_of_fields hc rfl
  all_goals
    next hn => exact encodeXYN_of_fields hc hn

theorem encodeWord_decodeE {w : Word} (hc : (fieldC w).val = 0xE) : encodeWord (decodeE w) = w := by
  unfold decodeE
  split
  case h_3 => exact encodeXNN_of_fields hc rfl
  all_goals
    next hnn => exact encodeXNN_of_fields hc hnn

theorem encodeWord_decodeF {w : Word} (hc : (fieldC w).val = 0xF) : encodeWord (decodeF w) = w := by
  unfold decodeF
  split
  case h_10 => exact encodeXNN_of_fields hc rfl
  all_goals
    next hnn => exact encodeXNN_of_fields hc hnn

/-- No bit of an opcode is dropped (R81). -/
theorem encodeWord_decodeWord (w : Word) : encodeWord (decodeWord w) = w := by
  have hlt := (fieldC w).isLt
  unfold decodeWord
  split
  case h_1 hc => exact encodeWord_decode0 hc
  case h_9 hc => exact encodeWord_decode8 hc
  case h_15 hc => exact encodeWord_decodeE hc
  case h_16 =>
    have hc : (fieldC w).val = 0xF := by
      simp only [imp_false] at *
      omega
    exact encodeWord_decodeF hc
  case h_2 hc | h_3 hc | h_11 hc | h_12 hc => exact encodeNNN_of_fields hc rfl
  case h_4 hc | h_5 hc | h_7 hc | h_8 hc | h_13 hc => exact encodeXNN_of_fields hc rfl
  case h_6 hc | h_10 hc | h_14 hc => exact encodeXYN_of_fields hc rfl

end Sys2Proof

namespace Sys2Proof.Machine

/-! ## FX0A by cases (R162) -/

theorem State.firstKeyDown_setPc (s : State) (a : Word) : (s.setPc a).firstKeyDown = s.firstKeyDown := rfl

/-- No key is down: PC goes back to the instruction. -/
theorem execLdVxK_of_none {s : State} (x : Reg) (h : s.firstKeyDown = none) :
    execLdVxK x s = .next (s.setPc (s.pc - 2)) := by
  simp only [execLdVxK, State.firstKeyDown_setPc, h]

/-- A key is down: its value is stored, and PC, back and on again, is where it was. -/
theorem execLdVxK_of_some {s : State} {k : Fin 16} (x : Reg) (h : s.firstKeyDown = some k) :
    execLdVxK x s = .next (s.setV x (keyStoreValue s.config.fx0aStoresIndex k)) := by
  have hpc : s.pc - 2 + 2 = s.pc := BitVec.sub_add_cancel s.pc 2
  simp only [execLdVxK, State.firstKeyDown_setPc, h, State.setPc_pc, hpc]
  rfl

/-! ## Other slots of the stack (R97) -/

/-- `s` with other slots; SP stays. -/
def State.withStack (s : State) (slots : Vector Word 12) : State := { s with stack := slots }

theorem State.skipIf_withStack (s : State) (slots : Vector Word 12) (c : Bool) :
    (s.withStack slots).skipIf c = (s.skipIf c).withStack slots := by
  cases c <;> rfl

theorem State.drawBit_withStack (s : State) (slots : Vector Word 12) (row col : Nat) (on : Bool) :
    (s.withStack slots).drawBit row col on = (s.drawBit row col on).withStack slots := by
  have hpixel (r : Fin 32) (c : Fin 64) : (s.withStack slots).pixel r c = s.pixel r c := rfl
  simp only [State.drawBit, hpixel]
  split_ifs <;> rfl

theorem State.drawByte_withStack (s : State) (slots : Vector Word 12) (row x0 : Nat) (b : Byte) :
    (s.withStack slots).drawByte row x0 b = (s.drawByte row x0 b).withStack slots :=
  List.foldl_hom (fun t => t.withStack slots)
    fun t c => State.drawBit_withStack t slots row (x0 + c) (b.getLsbD (7 - c))

theorem State.drawSprite_withStack (s : State) (slots : Vector Word 12) (x0 y0 n : Nat) :
    (s.withStack slots).drawSprite x0 y0 n = (s.drawSprite x0 y0 n).withStack slots :=
  List.foldl_hom (fun t => t.withStack slots)
    fun t r => State.drawByte_withStack t slots (y0 + r) x0 (t.mem.read (t.dataAddr r))

/-- A guard that does not read the stack, and a body that takes its slots along. -/
theorem orRaise_withStack {ok : Bool} {cause : FaultCause} {s body body' t : State}
    {slots : Vector Word 12} (hb : body' = body.withStack slots)
    (h : orRaise ok cause s body = .next t) :
    orRaise ok cause (s.withStack slots) body' = .next (t.withStack slots) := by
  subst hb
  cases ok <;> exact Host.Outcome.next.inj h ▸ rfl

theorem execLdVxK_withStack {x : Reg} {s t : State} (slots : Vector Word 12)
    (h : execLdVxK x s = .next t) : execLdVxK x (s.withStack slots) = .next (t.withStack slots) := by
  cases hk : s.firstKeyDown with
  | none =>
    obtain rfl := Host.Outcome.next.inj ((execLdVxK_of_none x hk).symm.trans h)
    exact execLdVxK_of_none x hk
  | some k =>
    obtain rfl := Host.Outcome.next.inj ((execLdVxK_of_some x hk).symm.trans h)
    exact execLdVxK_of_some x hk

/-- 2NNN writes the slot at SP, over whatever stands in the slots (R103). -/
theorem execCall_withStack {nnn : Imm12} {s t : State} (slots : Vector Word 12)
    (h : execCall nnn s = .next t) :
    ∃ slots', execCall nnn (s.withStack slots) = .next (t.withStack slots') := by
  unfold execCall at h
  split at h
  · next room =>
    obtain rfl := Host.Outcome.next.inj h
    exact ⟨_, dif_pos room⟩
  · next full =>
    obtain rfl := Host.Outcome.next.inj h
    exact ⟨slots, dif_neg full⟩

/-- Whatever the slots hold, an instruction but 00EE does the same to all other fields. -/
theorem exec_withStack {i : Instr} {s t : State} (hi : i ≠ .ret) (slots : Vector Word 12)
    (h : exec i s = .next t) : ∃ slots', exec i (s.withStack slots) = .next (t.withStack slots') := by
  cases i with
  | ret => exact absurd rfl hi
  | call nnn => exact execCall_withStack slots h
  | ldVxK x => exact ⟨slots, execLdVxK_withStack slots h⟩
  | seImm | sneImm | seReg | sneReg =>
    exact ⟨slots, Host.Outcome.next.inj h ▸ congrArg _ (s.skipIf_withStack slots _)⟩
  | skp | sknp => exact ⟨slots, orRaise_withStack (s.skipIf_withStack slots _) h⟩
  | drw =>
    exact ⟨slots, orRaise_withStack (State.drawSprite_withStack (s.setVF 0x00) slots _ _ _) h⟩
  | ldB | storeRegs | loadRegs => exact ⟨slots, orRaise_withStack rfl h⟩
  | cls | sys | jp | ldImm | addImm | ldReg | orReg | andReg | xorReg | addReg | subReg | shr | subnReg | shl
  | ldI | jpV0 | rnd | ldVxDt | ldDtVx | ldStVx | addI | ldF | unrecognised8 | unrecognisedE
  | unrecognisedF => exact ⟨slots, Host.Outcome.next.inj h ▸ rfl⟩

end Sys2Proof.Machine

namespace Sys2Proof.Claims

open Sys2Proof.Machine

/-! ## The step of a batch (R90 to R93, R95) -/

/-- Running without a fault, the session is not over. -/
theorem ended_eq_false_of_running {s : State} (hr : s.runState = .running) (hf : s.faultCause = .none) :
    s.ended = false :=
  (State.ended_eq_false_iff s).mpr ⟨by simp [hr], hf⟩

/-- Where no reset lands, none waits for this place of the tick (R212; log 21). -/
theorem inbox_ne_of_not_resetLands {s : State} (h : ¬ ResetLands s) (config : SessionConfig) (font : Font)
    (rom : Rom) (rest : List HostEvent) : s.inbox ≠ .reset s.phase config font rom :: rest :=
  fun hi => h ⟨s.phase, config, font, rom, rest, hi, .inr (.inr rfl)⟩

section

variable {s : State} {left : Nat} (hr : s.runState = .running) (hf : s.faultCause = .none)
  (hp : s.phase = .batch (left + 1)) (hn : ¬ ResetLands s)

include hr hf hp hn

/-- With PC in range the instruction at PC runs on the fetched state. -/
theorem step_eq_exec_fetched (hpc : s.pc.toNat ≤ 0xFFE) :
    step s = exec (decodeWord s.fetchWord) (s.fetched left) :=
  step_of_batch s left (ended_eq_false_of_running hr hf) hr hp (inbox_ne_of_not_resetLands hn)
    (decide_eq_true hpc)

/-- With PC out of range the fetch check faults, and PC is not advanced (R91). -/
theorem step_eq_raise_pcOutOfRange (hpc : 0xFFE < s.pc.toNat) :
    step s = .next ({ s with phase := .batch left }.raise .pcOutOfRange) := by
  have hc : State.canFetch { s with phase := .batch left } = false :=
    decide_eq_false (Nat.not_le.mpr hpc)
  simp only [step, State.nextMove_of_batch s (left + 1) (ended_eq_false_of_running hr hf) hp
    (inbox_ne_of_not_resetLands hn), State.batchMove, if_pos hr, State.instrMove, hc,
    Bool.false_eq_true, if_false]

end

/-- Settles O9: the two bytes at PC are the fetched opcode, and `decode` reads it as `decodeWord`. -/
theorem stepRunsDecodedInstruction : Obligations.StepRunsDecodedInstruction := by
  intro s left i rest hr hf hp hpc hn hdec
  obtain ⟨rfl, -⟩ : decodeWord s.fetchWord = i ∧ [] = rest := by
    simpa [State.fetchWord] using hdec
  exact step_eq_exec_fetched hr hf hp hn hpc

/-- Settles O10, by the fetch check. -/
theorem fetchCheckRaisesPcOutOfRange : Obligations.FetchCheckRaisesPcOutOfRange :=
  fun _ _ hr hf hp hpc hn => step_eq_raise_pcOutOfRange hr hf hp hn hpc

/-- Settles O11: each form runs as `State.diagnose`, and the instruction's encoding is the fetched opcode. -/
theorem unrecognisedOpcodeIsNoOpWithDiagnostic : Obligations.UnrecognisedOpcodeIsNoOpWithDiagnostic := by
  refine ⟨?_, fun x y n nn s => ⟨rfl, rfl, rfl⟩⟩
  intro s left w x y n nn hr hf hp hpc hn hw hform
  have hexec : exec (decodeWord w) (s.fetched left) =
      .next ((s.fetched left).diagnose (decodeWord w)) := by
    rcases hform with h | h | h <;> rw [h] <;> rfl
  rw [step_eq_exec_fetched hr hf hp hn hpc, hw, hexec, State.diagnose, encodeWord_decodeWord]
  rfl

/-! ## What an instruction writes (R94, R97) -/

/-- `s` with the fields that `i` may write where it completes, taken from `t`: DT by FX15 alone, ST by FX18,
the draw count by CXNN, SP by 00EE and 2NNN, the slots by 2NNN. An unrecognised opcode writes DIAG alone, and
any other instruction registers, memory, I, PC and the grid at most. -/
def writtenFrom (i : Instr) (s t : State) : State :=
  match i with
  | .ret => { s with pc := t.pc, sp := t.sp }
  | .call _ => { s with pc := t.pc, sp := t.sp, stack := t.stack }
  | .rnd _ _ => { s with v := t.v, rndDraws := t.rndDraws }
  | .drw _ _ _ => { s with v := t.v, disp := t.disp }
  | .ldDtVx _ => { s with dt := t.dt }
  | .ldStVx _ => { s with st := t.st }
  | .unrecognised8 _ _ _ | .unrecognisedE _ _ | .unrecognisedF _ _ => s.diagnose i
  | _ => { s with mem := t.mem, v := t.v, i := t.i, pc := t.pc, disp := t.disp }

/-- `i` completes in `t`: nothing has changed but what `i` may write. -/
def Completes (i : Instr) (s t : State) : Prop := t = writtenFrom i s t

/-- The two ways an instruction answers a next state (R94). -/
inductive Answered (i : Instr) (s t : State) : Prop where
  /-- the fault of R170, and nothing else -/
  | faults (fault : faultOf i s ≠ .none) (result : t = faulted s (faultOf i s))
  /-- it completes -/
  | completes (noFault : faultOf i s = .none) (frame : Completes i s t)

/-- `exec i s` is a next state, reached in one of the two ways. -/
def Answers (i : Instr) (s : State) : Prop := ∃ t, exec i s = .next t ∧ Answered i s t

theorem answers_of_completes {i : Instr} {s t : State} (hf : faultOf i s = .none) (hx : exec i s = .next t)
    (ht : Completes i s t) : Answers i s :=
  ⟨t, hx, .completes hf ht⟩

theorem answers_of_faults {i : Instr} {s : State} {cause : FaultCause} (hc : cause ≠ .none)
    (hf : faultOf i s = cause) (hx : exec i s = .next (s.raise cause)) : Answers i s := by
  subst hf
  exact ⟨_, hx, .faults hc rfl⟩

/-- A guarded operation whose guard is the negation of the fault condition `P` of R170. -/
theorem answers_of_orRaise {i : Instr} {s body : State} {ok : Bool} {cause : FaultCause} {P : Prop}
    [Decidable P] (hx : exec i s = orRaise ok cause s body) (hf : faultOf i s = if P then cause else .none)
    (hc : cause ≠ .none) (hok : ok = true ↔ ¬ P) (hb : Completes i s body) : Answers i s := by
  by_cases hP : P
  · obtain rfl : ok = false := by simpa [hP] using hok
    exact answers_of_faults hc (hf.trans (if_pos hP)) hx
  · obtain rfl : ok = true := hok.mpr hP
    exact answers_of_completes (hf.trans (if_neg hP)) hx hb

theorem answers_ret (s : State) : Answers .ret s := by
  by_cases h : s.sp.val = 0
  · exact answers_of_faults (cause := .stackUnderflow) nofun (if_pos h) (dif_neg (not_not.mpr h))
  · exact answers_of_completes (if_neg h) (dif_pos h) rfl

theorem answers_call (nnn : Imm12) (s : State) : Answers (.call nnn) s := by
  have hlt := s.sp.isLt
  by_cases h : s.sp.val = 12
  · exact answers_of_faults (cause := .stackOverflow) nofun (if_pos h) (dif_neg (by omega))
  · exact answers_of_completes (if_neg h) (dif_pos (by omega)) rfl

theorem answers_ldVxK (x : Reg) (s : State) : Answers (.ldVxK x) s := by
  cases hk : s.firstKeyDown with
  | none => exact answers_of_completes rfl (execLdVxK_of_none x hk) rfl
  | some k => exact answers_of_completes rfl (execLdVxK_of_some x hk) rfl

/-- Every instruction, in every state, faults as R170 says or completes within what it may write. -/
theorem exec_answers (i : Instr) (s : State) : Answers i s := by
  cases i with
  | ret => exact answers_ret s
  | call nnn => exact answers_call nnn s
  | ldVxK x => exact answers_ldVxK x s
  | ldB x => exact answers_of_orRaise rfl rfl nofun ((s.rangeOk_succ_iff 2).trans (by omega)) rfl
  | storeRegs x | loadRegs x =>
    exact answers_of_orRaise rfl rfl nofun ((s.rangeOk_succ_iff x.val).trans (by omega)) rfl
  | drw x y n =>
    exact answers_of_orRaise rfl rfl nofun ((s.rangeOk_iff n.val).trans (by omega))
      (State.drawSprite_frame (s.setVF 0x00) _ _ _)
  | skp x | sknp x =>
    exact answers_of_orRaise rfl rfl nofun ((s.keyIndexOk_iff x).trans (by omega))
      (by rw [State.skipIf_eq]; rfl)
  | seImm | sneImm | seReg | sneReg =>
    exact answers_of_completes rfl rfl (by rw [State.skipIf_eq]; rfl)
  | cls | sys | jp | ldImm | addImm | ldReg | orReg | andReg | xorReg | addReg | subReg | shr | subnReg | shl
  | ldI | jpV0 | rnd | ldVxDt | ldDtVx | ldStVx | addI | ldF | unrecognised8 | unrecognisedE
  | unrecognisedF => exact answers_of_completes rfl rfl rfl

/-! ## The frame of an instruction that completes -/

section

variable {i : Instr} {s t : State} (h : Completes i s t)

include h

theorem Completes.keys : t.keys = s.keys := by
  rw [h]; cases i <;> rfl

theorem Completes.config : t.config = s.config := by
  rw [h]; cases i <;> rfl

theorem Completes.phase : t.phase = s.phase := by
  rw [h]; cases i <;> rfl

theorem Completes.inbox : t.inbox = s.inbox := by
  rw [h]; cases i <;> rfl

theorem Completes.runState : t.runState = s.runState := by
  rw [h]; cases i <;> rfl

theorem Completes.faultCause : t.faultCause = s.faultCause := by
  rw [h]; cases i <;> rfl

theorem Completes.faultPc : t.faultPc = s.faultPc := by
  rw [h]; cases i <;> rfl

theorem Completes.dt (hi : ∀ x, i ≠ .ldDtVx x) : t.dt = s.dt := by
  rw [h]
  cases i with
  | ldDtVx x => exact absurd rfl (hi x)
  | _ => rfl

theorem Completes.st (hi : ∀ x, i ≠ .ldStVx x) : t.st = s.st := by
  rw [h]
  cases i with
  | ldStVx x => exact absurd rfl (hi x)
  | _ => rfl

theorem Completes.rndDraws (hi : ∀ x nn, i ≠ .rnd x nn) : t.rndDraws = s.rndDraws := by
  rw [h]
  cases i with
  | rnd x nn => exact absurd rfl (hi x nn)
  | _ => rfl

theorem Completes.stack (hi : ∀ nnn, i ≠ .call nnn) : t.stack = s.stack := by
  rw [h]
  cases i with
  | call nnn => exact absurd rfl (hi nnn)
  | _ => rfl

theorem Completes.sp (hret : i ≠ .ret) (hcall : ∀ nnn, i ≠ .call nnn) : t.sp = s.sp := by
  rw [h]
  cases i with
  | ret => exact absurd rfl hret
  | call nnn => exact absurd rfl (hcall nnn)
  | _ => rfl

/-- The one event of an instruction that completes is DIAG (R95). -/
theorem Completes.event (he : s.event = .none) (d : Display) : t.event ≠ .display d := by
  rw [h]
  cases i with
  | unrecognised8 | unrecognisedE | unrecognisedF => exact nofun
  | _ => exact he.trans_ne nofun

end

/-- Settles O13, by the two cases of `exec_answers`. -/
theorem faultingInstructionHasNoOtherEffect : Obligations.FaultingInstructionHasNoOtherEffect := by
  intro i s
  obtain ⟨t, hx, ha⟩ := exec_answers i s
  cases ha with
  | faults fault result =>
    subst result
    exact ⟨fun _ => hx, fun noFault => absurd noFault fault⟩
  | completes noFault frame =>
    exact ⟨fun fault => absurd noFault fault,
      fun _ => ⟨t, hx, frame.faultCause, frame.faultPc, frame.runState⟩⟩

/-- Settles O14: the frame of `exec_answers`, and `exec_withStack` for the stack's slots. -/
theorem instructionsNeverTouchHostState : Obligations.InstructionsNeverTouchHostState := by
  intro i s
  obtain ⟨t, hx, ha⟩ := exec_answers i s
  have hslots (hi : i ≠ .ret) (slots : Vector Word 12) :
      ∃ t', exec i { s with stack := slots } = .next t' ∧ { t' with stack := t.stack } = t := by
    obtain ⟨slots', hx'⟩ := exec_withStack hi slots hx
    exact ⟨t.withStack slots', hx', rfl⟩
  refine ⟨t, hx, ?_⟩
  cases ha with
  | completes _ frame =>
    exact ⟨frame.keys, frame.config, frame.phase, frame.inbox, frame.dt, frame.st, frame.rndDraws,
      .inl frame.runState, frame.event, frame.stack, frame.sp, hslots⟩
  | faults _ result =>
    subst result
    exact ⟨rfl, rfl, rfl, rfl, fun _ => rfl, fun _ => rfl, fun _ => rfl, .inr rfl, fun _ _ => nofun,
      fun _ => rfl, fun _ _ => rfl, hslots⟩

end Sys2Proof.Claims

/-! SUPPORT. Control transfer (spec/41_control_flow.md R100 to R105): what each instruction answers, and the
slots of the stack after a push and a pop. -/

namespace Sys2Proof.Machine

/-! ## The slots of the stack (R25) -/

theorem State.getElem?_push_stack_sp (s : State) (a : Word) (room : s.sp.val < 12) :
    (s.push a room).stack[s.sp.val]? = some a :=
  Vector.getElem?_set_self room

theorem State.getElem?_push_stack_of_ne (s : State) (a : Word) (room : s.sp.val < 12) {k : Nat}
    (hk : k ≠ s.sp.val) : (s.push a room).stack[k]? = s.stack[k]? :=
  Vector.getElem?_set_ne room hk.symm

/-- A pop takes PC from the slot below SP. -/
theorem State.getElem?_stack_eq_popPc_pc (s : State) (used : s.sp.val ≠ 0) :
    s.stack[s.sp.val - 1]? = some (s.popPc used).pc :=
  Vector.getElem?_eq_getElem _

/-! ## What 00EE and 2NNN answer (R100, R103, R171, R172) -/

theorem exec_ret_of_used {s : State} (used : s.sp.val ≠ 0) : exec .ret s = .next (s.popPc used) :=
  dif_pos used

theorem exec_ret_of_empty {s : State} (empty : s.sp.val = 0) :
    exec .ret s = .next (s.raise .stackUnderflow) :=
  dif_neg (not_not.mpr empty)

theorem exec_call_of_room (nnn : Imm12) {s : State} (room : s.sp.val < 12) :
    exec (.call nnn) s = .next ((s.push s.pc room).setPc (addrOfImm nnn)) :=
  dif_pos room

theorem exec_call_of_full (nnn : Imm12) {s : State} (full : s.sp.val = 12) :
    exec (.call nnn) s = .next (s.raise .stackOverflow) :=
  dif_neg (by omega)

end Sys2Proof.Machine

namespace Sys2Proof.Claims

open Sys2Proof.Machine

theorem raise_eq_faulted (s : State) (cause : FaultCause) : s.raise cause = faulted s cause := rfl

theorem sameBytes_of_mem_eq {s t : State} (h : t.mem = s.mem) : SameBytes s t :=
  fun a => congrArg (·.read a) h

theorem onlyPc_setPc (s : State) (a : Word) : OnlyPc s (s.setPc a) := ⟨rfl, sameBytes_of_mem_eq rfl⟩

/-- Settles O16: a used stack is popped, an empty one raises the fault. -/
theorem returnPopsProgramCounter : Obligations.ReturnPopsProgramCounter := by
  intro s
  constructor
  · intro used
    exact ⟨s.popPc used, exec_ret_of_used used, rfl, s.getElem?_stack_eq_popPc_pc used, rfl,
      sameBytes_of_mem_eq rfl⟩
  · intro empty
    rw [exec_ret_of_empty empty, raise_eq_faulted]

/-- Settles O17: both run as a `setPc` to NNN widened with zeros (R73). -/
theorem jumpsSetProgramCounter : Obligations.JumpsSetProgramCounter := by
  intro nnn s
  have hpc : (s.setPc (addrOfImm nnn)).pc.toNat = nnn.toNat := addrOfImm_toNat nnn
  exact ⟨⟨_, rfl, hpc, onlyPc_setPc s _⟩, ⟨_, rfl, hpc, onlyPc_setPc s _⟩⟩

/-- Settles O18: with room the post-fetch PC is pushed, a full stack raises the fault. -/
theorem callPushesReturnAddress : Obligations.CallPushesReturnAddress := by
  intro nnn s
  constructor
  · intro room
    exact ⟨_, exec_call_of_room nnn room, s.getElem?_push_stack_sp s.pc room,
      fun k hk => s.getElem?_push_stack_of_ne s.pc room hk, rfl, addrOfImm_toNat nnn, rfl,
      sameBytes_of_mem_eq rfl⟩
  · intro full
    rw [exec_call_of_full nnn full, raise_eq_faulted]

/-- Settles O19: a byte plus 12 bits fits in 16, so the sum does not wrap. -/
theorem offsetJumpAddsV0 : Obligations.OffsetJumpAddsV0 := by
  intro nnn s
  exact ⟨_, rfl, toNat_byte_add_addrOfImm (s.getV regV0) nnn, onlyPc_setPc s _⟩

/-- Settles O20: the call's slot holds the post-fetch PC, and the return pops that slot. -/
theorem returnUndoesCall : Obligations.ReturnUndoesCall := by
  intro nnn s room
  refine ⟨_, exec_call_of_room nnn room, ?_⟩
  intro u hsp hslot
  have used : u.sp.val ≠ 0 := by omega
  have hdepth : u.sp.val - 1 = s.sp.val := by omega
  refine ⟨_, exec_ret_of_used used, Fin.ext hdepth, ?_⟩
  apply Option.some.inj
  calc some (u.popPc used).pc
    _ = u.stack[u.sp.val - 1]? := (u.getElem?_stack_eq_popPc_pc used).symm
    _ = u.stack[s.sp.val]? := by rw [hdepth]
    _ = (s.push s.pc room).stack[s.sp.val]? := hslot
    _ = some s.pc := s.getElem?_push_stack_sp s.pc room

end Sys2Proof.Claims

/-! SUPPORT. Skips (spec/42_skips.md R110 to R114): PC after a skip on each of the two comparisons of bytes,
and the frame of a skip. -/

namespace Sys2Proof.Machine

@[simp] theorem State.skipIf_pc (s : State) (c : Bool) :
    (s.skipIf c).pc = if c = true then s.pc + 2 else s.pc := by
  rw [State.skipIf_eq]

theorem State.skipIf_beq_pc (s : State) (a b : Byte) :
    (s.skipIf (a == b)).pc = if a = b then s.pc + 2 else s.pc := by
  simp only [State.skipIf_pc, beq_iff_eq]

theorem State.skipIf_bne_pc (s : State) (a b : Byte) :
    (s.skipIf (a != b)).pc = if a = b then s.pc else s.pc + 2 := by
  simp only [State.skipIf_pc, bne_iff_ne, ite_not]

end Sys2Proof.Machine

namespace Sys2Proof.Claims

open Sys2Proof.Machine

theorem onlyPc_skipIf (s : State) (c : Bool) : OnlyPc s (s.skipIf c) := by
  cases c with
  | true => exact onlyPc_setPc s (s.pc + 2)
  | false => exact ⟨rfl, sameBytes_of_mem_eq rfl⟩

/-- Settles O21: both run as a skip, on `V[x] == nn` and on its negation. -/
theorem immediateSkipsCompare : Obligations.ImmediateSkipsCompare := by
  intro x nn s
  exact ⟨⟨_, rfl, onlyPc_skipIf s _, s.skipIf_beq_pc (s.getV x) nn⟩,
    ⟨_, rfl, onlyPc_skipIf s _, s.skipIf_bne_pc (s.getV x) nn⟩⟩

/-- Settles O22: both run as a skip on the two registers, and the low nibble plays no part (D12). -/
theorem registerSkipsCompare : Obligations.RegisterSkipsCompare := by
  intro x y n s
  exact ⟨⟨_, rfl, onlyPc_skipIf s _, s.skipIf_beq_pc (s.getV x) (s.getV y)⟩,
    ⟨_, rfl, onlyPc_skipIf s _, s.skipIf_bne_pc (s.getV x) (s.getV y)⟩⟩

end Sys2Proof.Claims

/-! SUPPORT. Register load and ALU (spec/43_load_alu.md R120 to R131): reads of the register just written and
of the others, the flags and shifts as numbers, and the frames of one and of two register writes. -/

namespace Sys2Proof.Machine

/-! ## Reads after writes -/

theorem State.getV_setV_self (s : State) (r : Reg) (b : Byte) : (s.setV r b).getV r = b := by
  rw [State.getV_setV, if_pos rfl]

theorem State.getV_setV_of_ne (s : State) {r q : Reg} (b : Byte) (h : q ≠ r) :
    (s.setV r b).getV q = s.getV q := by
  rw [State.getV_setV, if_neg h]

theorem State.getV_setVF_regVF (s : State) (f : Byte) : (s.setVF f).getV regVF = f :=
  s.getV_setV_self regVF f

theorem State.getV_setVF_of_ne (s : State) {q : Reg} (f : Byte) (h : q ≠ regVF) :
    (s.setVF f).getV q = s.getV q :=
  s.getV_setV_of_ne f h

/-! ## Flags and shifts as numbers -/

theorem flagByte_decide (P : Prop) [Decidable P] : flagByte (decide P) = if P then 0x01 else 0x00 := by
  simp only [flagByte, decide_eq_true_eq]

theorem greaterFlag_eq (a b : Byte) : greaterFlag a b = if a.toNat > b.toNat then 0x01 else 0x00 :=
  flagByte_decide _

theorem toNat_rightBitOut (a : Byte) : (rightBitOut a).toNat = a.toNat % 2 := by
  rw [rightBitOut, BitVec.toNat_and]
  exact Nat.and_one_is_mod a.toNat

theorem toNat_leftBitOut (a : Byte) : (leftBitOut a).toNat = a.toNat / 128 := by
  have hlt := a.isLt
  calc (leftBitOut a).toNat
    _ = (a.toNat &&& 128) >>> 7 := by rw [leftBitOut, BitVec.toNat_ushiftRight, BitVec.toNat_and]; rfl
    _ = a.toNat >>> 7 &&& 1 := Nat.shiftRight_and_distrib
    _ = a.toNat / 128 % 2 := by rw [Nat.and_one_is_mod, Nat.shiftRight_eq_div_pow]
    _ = a.toNat / 128 := by omega

theorem toNat_ushiftRight_one (a : Byte) : (a >>> 1).toNat = a.toNat / 2 := by
  rw [BitVec.toNat_ushiftRight, Nat.shiftRight_one]

theorem toNat_shiftLeft_one (a : Byte) : (a <<< 1).toNat = a.toNat * 2 % 256 := by
  rw [BitVec.toNat_shiftLeft, Nat.shiftLeft_eq]

/-- 8XY6 on VF shifts the flag out (R128, D9). -/
theorem rightBitOut_ushiftRight_one (a : Byte) : rightBitOut a >>> 1 = 0x00 := by
  apply BitVec.eq_of_toNat_eq
  rw [toNat_ushiftRight_one, toNat_rightBitOut]
  exact Nat.div_eq_of_lt (Nat.mod_lt _ (by decide))

/-- 8XYE on VF doubles the flag (R130, D9). -/
theorem toNat_leftBitOut_shiftLeft_one (a : Byte) :
    (leftBitOut a <<< 1).toNat = 2 * (a.toNat / 128) := by
  have hlt := a.isLt
  rw [toNat_shiftLeft_one, toNat_leftBitOut]
  omega

/-! ## A flag, then an operation on the registers as the flag left them (R127 to R130, D9; log 12) -/

/-- The shape of 8XY5, 8XY6, 8XY7 and 8XYE: `VF <- f`, then `V[x] <- op V[x] V[y]`. -/
def State.flagThen (s : State) (f : Byte) (op : Byte → Byte → Byte) (x y : Reg) : State :=
  (s.setVF f).setV x (op ((s.setVF f).getV x) ((s.setVF f).getV y))

theorem exec_subReg (x y : Reg) (s : State) : exec (.subReg x y) s =
    .next (s.flagThen (greaterFlag (s.getV x) (s.getV y)) (fun a b => a - b) x y) := rfl

theorem exec_subnReg (x y : Reg) (s : State) : exec (.subnReg x y) s =
    .next (s.flagThen (greaterFlag (s.getV y) (s.getV x)) (fun a b => b - a) x y) := rfl

theorem exec_shr (x y : Reg) (s : State) : exec (.shr x y) s =
    .next (s.flagThen (rightBitOut (s.getV x)) (fun a _ => a >>> 1) x y) := rfl

theorem exec_shl (x y : Reg) (s : State) : exec (.shl x y) s =
    .next (s.flagThen (leftBitOut (s.getV x)) (fun a _ => a <<< 1) x y) := rfl

section

variable (s : State) (f : Byte) (op : Byte → Byte → Byte) {x : Reg} (y : Reg)

/-- The flag survives a destination that is not VF. -/
theorem State.getV_flagThen_regVF (hx : x ≠ regVF) : (s.flagThen f op x y).getV regVF = f := by
  rw [State.flagThen, State.getV_setV_of_ne _ _ hx.symm, State.getV_setVF_regVF]

/-- An operand that is VF is the flag, any other its old value. -/
theorem State.getV_flagThen_self : (s.flagThen f op x y).getV x =
    op (if x = regVF then f else s.getV x) (if y = regVF then f else s.getV y) := by
  rw [State.flagThen, State.getV_setV_self, State.getV_setVF, State.getV_setVF]

theorem State.getV_flagThen_of_ne {r : Reg} (hx : r ≠ x) (hf : r ≠ regVF) :
    (s.flagThen f op x y).getV r = s.getV r := by
  rw [State.flagThen, State.getV_setV_of_ne _ _ hx, State.getV_setVF_of_ne _ _ hf]

end

end Sys2Proof.Machine

namespace Sys2Proof.Claims

open Sys2Proof.Machine

/-! ## Frames of register writes -/

theorem onlyReg_setV (s : State) (x : Reg) (b : Byte) : OnlyReg s (s.setV x b) x :=
  ⟨⟨rfl, sameBytes_of_mem_eq rfl⟩, fun _ hr => s.getV_setV_of_ne b hr⟩

/-- 8XY4 writes the result first, then the flag. -/
theorem onlyRegAndVF_setV_setVF (s : State) (x : Reg) (b f : Byte) :
    OnlyRegAndVF s ((s.setV x b).setVF f) x :=
  ⟨⟨rfl, sameBytes_of_mem_eq rfl⟩, fun _ hx hf => by
    rw [State.getV_setVF_of_ne _ f hf, State.getV_setV_of_ne s b hx]⟩

/-- Settles O23: each is one write of V[X], and the sum of two bytes is modulo 256. -/
theorem loadsAndAddImmediateWriteVx : Obligations.LoadsAndAddImmediateWriteVx := by
  intro x y nn s
  refine ⟨⟨_, rfl, s.getV_setV_self x nn, onlyReg_setV s x _⟩, ⟨_, rfl, ?_, onlyReg_setV s x _⟩,
    ⟨_, rfl, s.getV_setV_self x _, onlyReg_setV s x _⟩⟩
  rw [State.getV_setV_self, BitVec.toNat_add]

/-- Settles O24: each is one write of V[X], read bit by bit. -/
theorem logicOperationsWriteVx : Obligations.LogicOperationsWriteVx := by
  intro x y s
  refine ⟨⟨_, rfl, onlyReg_setV s x _, fun k => ?_⟩, ⟨_, rfl, onlyReg_setV s x _, fun k => ?_⟩,
    ⟨_, rfl, onlyReg_setV s x _, fun k => ?_⟩⟩
  · rw [State.getV_setV_self, BitVec.getLsbD_or]
  · rw [State.getV_setV_self, BitVec.getLsbD_and]
  · rw [State.getV_setV_self, BitVec.getLsbD_xor]

/-- Settles O25: the carry is written last, so it stands in VF; a sum in another register stays. -/
theorem addWritesSumThenCarry : Obligations.AddWritesSumThenCarry := by
  intro x y s
  refine ⟨_, rfl, onlyRegAndVF_setV_setVF s x _ _, ?_, ?_⟩
  · rw [State.getV_setVF_regVF, carryFlag, flagByte_decide]
  · intro hx
    rw [State.getV_setVF_of_ne _ _ hx, State.getV_setV_self, BitVec.toNat_add]

/-! ## 8XY5, 8XY6, 8XY7 and 8XYE -/

theorem onlyRegAndVF_flagThen (s : State) (f : Byte) (op : Byte → Byte → Byte) (x y : Reg) :
    OnlyRegAndVF s (s.flagThen f op x y) x :=
  ⟨⟨rfl, sameBytes_of_mem_eq rfl⟩, fun _ hx hf => s.getV_flagThen_of_ne f op y hx hf⟩

/-- The cases of R127 and R129 by which operands are VF, for either order of the difference. -/
theorem flagThen_cases (s : State) (f : Byte) {op : Byte → Byte → Byte} (x y : Reg)
    (hop : ∀ b, op b b = 0x00) :
    (x ≠ regVF → (s.flagThen f op x y).getV regVF = f) ∧
    (x ≠ regVF → y ≠ regVF → (s.flagThen f op x y).getV x = op (s.getV x) (s.getV y)) ∧
    (x ≠ regVF → y = regVF → (s.flagThen f op x y).getV x = op (s.getV x) f) ∧
    (x = regVF → y ≠ regVF → (s.flagThen f op x y).getV regVF = op f (s.getV y)) ∧
    (x = regVF → y = regVF → (s.flagThen f op x y).getV regVF = 0x00) := by
  refine ⟨s.getV_flagThen_regVF f op y, ?_, ?_, ?_, ?_⟩
  · intro hx hy
    rw [State.getV_flagThen_self, if_neg hx, if_neg hy]
  · intro hx hy
    rw [State.getV_flagThen_self, if_neg hx, if_pos hy]
  · rintro rfl hy
    rw [State.getV_flagThen_self, if_pos rfl, if_neg hy]
  · rintro rfl rfl
    rw [State.getV_flagThen_self, hop]

/-- Settles O26: `f` is the flag 8XY5 writes, and `flagThen_cases` says what is read after it. -/
theorem subtractWritesFlagThenDifference : Obligations.SubtractWritesFlagThenDifference := by
  intro x y s f hf
  rw [← greaterFlag_eq] at hf
  subst hf
  exact ⟨_, exec_subReg x y s, onlyRegAndVF_flagThen s _ _ x y,
    flagThen_cases s _ x y sub_self⟩

/-- Settles O27: as O26 with the operands exchanged, in the flag and in the difference. -/
theorem reverseSubtractWritesFlagThenDifference : Obligations.ReverseSubtractWritesFlagThenDifference := by
  intro x y s f hf
  rw [← greaterFlag_eq] at hf
  subst hf
  exact ⟨_, exec_subnReg x y s, onlyRegAndVF_flagThen s _ _ x y,
    flagThen_cases s _ x y sub_self⟩

/-- Settles O28: on VF the shift applies to the flag, elsewhere to the old value. -/
theorem shiftsWriteBitOutThenShift : Obligations.ShiftsWriteBitOutThenShift := by
  intro x y s
  constructor
  · refine ⟨_, exec_shr x y s, onlyRegAndVF_flagThen s _ _ x y, fun hx => ⟨?_, ?_⟩, ?_⟩
    · rw [State.getV_flagThen_regVF _ _ _ _ hx, toNat_rightBitOut]
    · rw [State.getV_flagThen_self, if_neg hx, toNat_ushiftRight_one]
    · rintro rfl
      rw [State.getV_flagThen_self, if_pos rfl, rightBitOut_ushiftRight_one]
  · refine ⟨_, exec_shl x y s, onlyRegAndVF_flagThen s _ _ x y, fun hx => ⟨?_, ?_⟩, ?_⟩
    · rw [State.getV_flagThen_regVF _ _ _ _ hx, toNat_leftBitOut]
    · rw [State.getV_flagThen_self, if_neg hx, toNat_shiftLeft_one]
    · rintro rfl
      rw [State.getV_flagThen_self, if_pos rfl, toNat_leftBitOut_shiftLeft_one]

/-! ## CXNN -/

theorem getV_rndWith (r : Byte) (x : Reg) (nn : Byte) (s : State) : (rndWith r x nn s).getV x = r &&& nn :=
  s.getV_setV_self x (r &&& nn)

/-- Settles O29: one write of V[X] after the draw is counted; a bit that NN lacks is masked out. -/
theorem randomByteIsMasked : Obligations.RandomByteIsMasked := by
  intro x nn s
  refine ⟨_, _, rfl, rfl, getV_rndWith _ x nn _, ?_, ?_, rfl, rfl, sameBytes_of_mem_eq rfl⟩
  · intro k hk
    rw [getV_rndWith, BitVec.getLsbD_and, hk, Bool.and_false]
  · intro q hq
    exact State.getV_setV_of_ne _ _ hq

end Sys2Proof.Claims

/-! SUPPORT. Index register and memory transfer (spec/44_index_memory.md R140 to R146): the values written to
I as numbers, what the transfers answer on both sides of the bounds check, and what a load at I gives after a
store there. -/

namespace Sys2Proof.Machine

/-! ## Values of I (R140, R141, R142) -/

theorem toNat_glyphAddr (b : Byte) : (glyphAddr b).toNat = b.toNat * 5 := by
  have hlt := b.isLt
  calc (glyphAddr b).toNat
    _ = b.toNat % 2 ^ 16 * 5 % 2 ^ 16 := by rw [glyphAddr, BitVec.toNat_mul, BitVec.toNat_setWidth]; rfl
    _ = b.toNat * 5 := by omega

theorem State.toNat_wideV (s : State) (r : Reg) : (s.wideV r).toNat = (s.getV r).toNat :=
  BitVec.toNat_setWidth_of_le (by decide)

/-! ## Bytes stored at I (R143, R144) -/

/-- A block stored at I that lies in memory is read back byte by byte. -/
theorem State.read_writeBytes_dataAddr (s : State) {bytes : List Byte} {k : Nat} {b : Byte}
    (hm : s.mem.wf = true) (hl : s.i.toNat + bytes.length ≤ 4096) (hb : bytes[k]? = some b) :
    (s.mem.writeBytes (s.dataAddr 0) bytes).read (s.dataAddr k) = b :=
  Memory.read_writeBytes_inside bytes s.mem s.i.toNat k b hm hl hb

theorem State.read_regBlock_dataAddr (s : State) {x k : Reg} (hm : s.mem.wf = true)
    (h : s.i.toNat + x.val ≤ 0xFFF) (hk : k.val ≤ x.val) :
    (s.mem.writeBytes (s.dataAddr 0) (s.regBlock x)).read (s.dataAddr k.val) = s.getV k := by
  have hlen : (s.regBlock x).length = x.val + 1 := s.length_regBlock x
  exact s.read_writeBytes_dataAddr hm (by omega) (s.regBlock_getElem? x k hk)

/-! ## Registers loaded from I (R145) -/

/-- FX65 whose block lies in memory completes. -/
theorem exec_loadRegs_of_inRange (x : Reg) (s : State) (h : s.i.toNat + x.val ≤ 0xFFF) :
    exec (.loadRegs x) s = .next { s with v := s.loadedBlock x } := by
  simp only [exec, execLoadRegs, (s.rangeOk_succ_iff x.val).mpr h, orRaise_true]

theorem State.getV_loadedBlock (s : State) (x k : Reg) :
    State.getV { s with v := s.loadedBlock x } k =
      if k.val ≤ x.val then s.mem.read (s.dataAddr k.val) else s.getV k :=
  s.getElem_loadedBlock x k.val k.isLt

/-- A load of what the registers hold already changes none of them. -/
theorem State.loadedBlock_eq_v (s : State) (x : Reg)
    (h : ∀ k : Reg, k.val ≤ x.val → s.mem.read (s.dataAddr k.val) = s.getV k) : s.loadedBlock x = s.v := by
  apply Vector.ext
  intro k hk
  rw [State.getElem_loadedBlock]
  split
  · next hkx => exact h ⟨k, hk⟩ hkx
  · rfl

theorem exec_loadRegs_of_loaded (x : Reg) (s : State) (h : s.i.toNat + x.val ≤ 0xFFF)
    (hv : ∀ k : Reg, k.val ≤ x.val → s.mem.read (s.dataAddr k.val) = s.getV k) :
    exec (.loadRegs x) s = .next s := by
  rw [exec_loadRegs_of_inRange x s h, s.loadedBlock_eq_v x hv]

end Sys2Proof.Machine

namespace Sys2Proof.Claims

open Sys2Proof.Machine

theorem onlyI_setI (s : State) (a : Word) : OnlyI s (s.setI a) := ⟨rfl, sameBytes_of_mem_eq rfl⟩

theorem onlyBytes_writeBytes (s : State) (a : Nat) (bytes : List Byte) :
    OnlyBytes s { s with mem := s.mem.writeBytes a bytes } a bytes.length :=
  ⟨rfl, fun b hb => Memory.read_writeBytes_outside bytes s.mem a b hb⟩

/-- An instruction that has a fault in `s` (R170) answers its entry. -/
theorem exec_of_faultOf {i : Instr} {s : State} {cause : FaultCause} (hf : faultOf i s = cause)
    (hc : cause ≠ .none) : exec i s = .next (faulted s cause) := by
  subst hf
  exact (faultingInstructionHasNoOtherEffect i s).1 hc

/-- Settles O30: each is one write of I, to NNN widened, a sum that wraps, and a product that does not. -/
theorem indexRegisterWrites : Obligations.IndexRegisterWrites := by
  intro nnn x s
  refine ⟨⟨_, rfl, addrOfImm_toNat nnn, onlyI_setI s _⟩, ⟨_, rfl, ?_, onlyI_setI s _⟩,
    ⟨_, rfl, toNat_glyphAddr (s.getV x), onlyI_setI s _⟩⟩
  rw [State.setI_i, BitVec.toNat_add, State.toNat_wideV]

/-- Settles O31: in range the three digits are read back and recombine, beyond it the fault is entered. -/
theorem decimalDigitsAreStored : Obligations.DecimalDigitsAreStored := by
  intro x s hm
  constructor
  · intro h
    have hl : s.i.toNat + (decimalDigits (s.getV x)).length ≤ 4096 := by
      rw [length_decimalDigits]; omega
    refine ⟨_, exec_ldB_of_inRange x s h, onlyBytes_writeBytes s (s.dataAddr 0) _, ?_⟩
    rw [s.read_writeBytes_dataAddr (k := 0) hm hl rfl, s.read_writeBytes_dataAddr (k := 1) hm hl rfl,
      s.read_writeBytes_dataAddr (k := 2) hm hl rfl]
    have hlt := (s.getV x).isLt
    simp only [BitVec.toNat_ofNat]
    omega
  · intro h
    exact exec_of_faultOf (if_pos h) nofun

/-- Settles O32: in range the block is read back, beyond it the fault is entered. -/
theorem registerBlockIsStored : Obligations.RegisterBlockIsStored := by
  intro x s hm
  constructor
  · intro h
    refine ⟨_, exec_storeRegs_of_inRange x s h, ?_, fun k hk => s.read_regBlock_dataAddr hm h hk⟩
    rw [← s.length_regBlock x]
    exact onlyBytes_writeBytes s (s.dataAddr 0) _
  · intro h
    exact exec_of_faultOf (if_pos h) nofun

/-- Settles O33: `State.getV_loadedBlock` reads the registers on both sides of V[X]. -/
theorem registerBlockIsLoaded : Obligations.RegisterBlockIsLoaded := by
  intro x s
  constructor
  · intro h
    refine ⟨_, exec_loadRegs_of_inRange x s h, ⟨rfl, sameBytes_of_mem_eq rfl⟩, ?_, ?_⟩
    · intro k hk
      rw [State.getV_loadedBlock, if_pos hk]
    · intro k hk
      rw [State.getV_loadedBlock, if_neg (Nat.not_le.mpr hk)]
  · intro h
    exact exec_of_faultOf (if_pos h) nofun

/-- Settles O34: the load reads at I the block just stored, which the registers may still hold or not. -/
theorem loadAfterStoreIsIdentity : Obligations.LoadAfterStoreIsIdentity := by
  intro x s hm h
  refine ⟨_, exec_storeRegs_of_inRange x s h, ?_, ?_⟩
  · exact exec_loadRegs_of_loaded x _ h fun k hk => s.read_regBlock_dataAddr hm h hk
  · intro clobbered
    refine ⟨_, exec_loadRegs_of_inRange x _ h, fun k hk => ?_⟩
    rw [State.getV_loadedBlock, if_pos hk]
    exact s.read_regBlock_dataAddr hm h hk

end Sys2Proof.Claims

/-! SUPPORT. Display (spec/45_display.md R150 to R152): what drawing a set of cells does to the grid, VF and
everything else, for one bit, one byte and one sprite, each from the part before it. -/

namespace Sys2Proof.Machine

theorem State.SameButDraw.mem {s t : State} (h : s.SameButDraw t) : t.mem = s.mem := by rw [h]

theorem State.SameButDraw.i {s t : State} (h : s.SameButDraw t) : t.i = s.i := by rw [h]

/-! ## Drawing a set of cells (R151, R152) -/

/-- `t` is `s` with the cells of `m` (by row and column) flipped; VF is 0x01 if one of them was lit and is
kept if none was; nothing else changes. -/
structure State.Draws (m : Nat → Nat → Bool) (s t : State) : Prop where
  cells (r : Fin 32) (c : Fin 64) : t.pixel r c = (s.pixel r c ^^ m r c)
  hit {r : Fin 32} {c : Fin 64} (lit : s.pixel r c = true) (on : m r c = true) : t.getV regVF = 0x01
  miss (off : ∀ (r : Fin 32) (c : Fin 64), s.pixel r c = true → m r c = false) :
    t.getV regVF = s.getV regVF
  others {q : Reg} (hq : q ≠ regVF) : t.getV q = s.getV q
  frame : s.SameButDraw t

theorem State.Draws.of_empty {m : Nat → Nat → Bool} (hm : ∀ r c, m r c = false) (s : State) :
    s.Draws m s where
  cells r c := by rw [hm, Bool.xor_false]
  hit _ on := by simp [hm] at on
  miss _ := rfl
  others _ := rfl
  frame := .refl s

/-- Where the two sets do not meet, a cell of the second is as it was before the first, so one drawing of the
union has the same collisions. -/
theorem State.Draws.union {m m' : Nat → Nat → Bool} {s t u : State} (h : s.Draws m t) (h' : t.Draws m' u)
    (disjoint : ∀ r c, m r c = true → m' r c = false) : s.Draws (fun r c => m r c || m' r c) u where
  cells r c := by
    rw [h'.cells, h.cells]
    cases hm : m r c with
    | true => simp [disjoint r c hm]
    | false => simp
  hit {r c} lit on := by
    by_cases later : ∃ (r : Fin 32) (c : Fin 64), t.pixel r c = true ∧ m' r c = true
    · obtain ⟨_, _, lit', on'⟩ := later
      exact h'.hit lit' on'
    · have off' (r : Fin 32) (c : Fin 64) (lit' : t.pixel r c = true) : m' r c = false :=
        Bool.eq_false_iff.mpr fun on' => later ⟨r, c, lit', on'⟩
      rw [h'.miss off']
      cases hm : m r c with
      | true => exact h.hit lit hm
      | false =>
        have lit' : t.pixel r c = true := by rw [h.cells, lit, hm, Bool.xor_false]
        simp [hm, off' r c lit'] at on
  miss off := by
    have offFirst (r : Fin 32) (c : Fin 64) (lit : s.pixel r c = true) : m r c = false :=
      (Bool.or_eq_false_iff.mp (off r c lit)).1
    rw [← h.miss offFirst]
    refine h'.miss fun r c lit' => ?_
    rw [h.cells] at lit'
    cases hm : m r c with
    | true => exact disjoint r c hm
    | false =>
      rw [hm, Bool.xor_false] at lit'
      exact (Bool.or_eq_false_iff.mp (off r c lit')).2
  others hq := (h'.others hq).trans (h.others hq)
  frame := h.frame.trans h'.frame

/-- A loop whose round `k` draws `part k` has drawn `covered n` after `n` rounds, if `covered` grows by
`part k` in round `k` and the two do not meet. -/
theorem State.Draws.foldl_range {s : State} {f : State → Nat → State} {covered part : Nat → Nat → Nat → Bool}
    (round : ∀ t k, s.SameButDraw t → t.Draws (part k) (f t k))
    (start : ∀ r c, covered 0 r c = false)
    (grow : ∀ k r c, covered (k + 1) r c = (covered k r c || part k r c))
    (disjoint : ∀ k r c, covered k r c = true → part k r c = false) :
    ∀ n, s.Draws (covered n) ((List.range n).foldl f s)
  | 0 => .of_empty start s
  | n + 1 => by
    have before := foldl_range round start grow disjoint n
    have step := before.union (round _ n before.frame) (disjoint n)
    rw [List.range_succ, List.foldl_append,
      show covered (n + 1) = fun r c => covered n r c || part n r c from funext₂ (grow n)]
    exact step

/-! ## One bit and one byte -/

theorem State.draws_drawBit (s : State) (row col : Nat) (on : Bool) :
    s.Draws (fun r c => on && (r == row && c == col)) (s.drawBit row col on) where
  cells := s.pixel_drawBit row col on
  hit {r c} lit hm := by
    obtain ⟨rfl, rfl, rfl⟩ : on = true ∧ r.val = row ∧ c.val = col := by simpa using hm
    rw [State.getV_drawBit, if_pos ⟨rfl, rfl, ⟨r.isLt, c.isLt⟩, lit⟩]
  miss off := by
    rw [State.getV_drawBit, if_neg]
    rintro ⟨-, rfl, ⟨hrow, hcol⟩, lit⟩
    simpa using off ⟨row, hrow⟩ ⟨col, hcol⟩ lit
  others hq := by rw [State.getV_drawBit, if_neg fun h => hq h.1]
  frame := s.drawBit_frame row col on

/-- The 1 bits among the first `k` of byte `b` at `row` from column `x0` on, bit 7 leftmost (R151, D31). -/
def byteBit (row x0 : Nat) (b : Byte) (k r c : Nat) : Bool :=
  decide (r = row ∧ x0 ≤ c ∧ c < x0 + k) && b.getLsbD (7 - (c - x0))

theorem byteBit_zero (row x0 : Nat) (b : Byte) (r c : Nat) : byteBit row x0 b 0 r c = false := by
  have : ¬ (r = row ∧ x0 ≤ c ∧ c < x0 + 0) := by omega
  simp only [byteBit, this, decide_false, Bool.false_and]

theorem byteBit_succ (row x0 : Nat) (b : Byte) (k r c : Nat) :
    byteBit row x0 b (k + 1) r c =
      (byteBit row x0 b k r c || (b.getLsbD (7 - k) && (r == row && c == x0 + k))) := by
  by_cases hc : c = x0 + k
  · subst hc
    simp [byteBit, beq_eq_decide, Bool.and_comm]
  · have hlt : c < x0 + (k + 1) ↔ c < x0 + k := by omega
    simp [byteBit, hc, hlt]

theorem State.draws_drawByte (s : State) (row x0 : Nat) (b : Byte) :
    s.Draws (byteBit row x0 b 8) (s.drawByte row x0 b) := by
  refine .foldl_range (fun t k _ => t.draws_drawBit row (x0 + k) (b.getLsbD (7 - k)))
    (byteBit_zero row x0 b) (byteBit_succ row x0 b) (fun k r c hb => ?_) 8
  simp only [byteBit, Bool.and_eq_true, decide_eq_true_eq] at hb
  obtain ⟨⟨-, -, hlt⟩, -⟩ := hb
  simp [hlt.ne]

/-! ## 00E0 and DXYN -/

/-- A cell of the blank grid is false (R150). -/
theorem State.pixel_of_disp_blank {s : State} (h : s.disp = Display.blank) (r : Fin 32) (c : Fin 64) :
    s.pixel r c = false := by
  simp [State.pixel, h, Display.blank]

theorem exec_drw_of_inRange (x y : Reg) {n : Nibble} {s : State}
    (h : n.val = 0 ∨ s.i.toNat + n.val - 1 ≤ 0xFFF) : exec (.drw x y n) s =
      .next ((s.setVF 0x00).drawSprite ((s.getV x).toNat % 64) ((s.getV y).toNat % 32) n.val) := by
  simp only [exec, execDrw, (s.rangeOk_iff n.val).mpr h, orRaise_true]

end Sys2Proof.Machine

namespace Sys2Proof.Claims

open Sys2Proof.Machine

/-! ## One sprite -/

theorem spriteBit_zero (s : State) (x0 y0 r c : Nat) : spriteBit s x0 y0 0 r c = false := by
  have : ¬ (y0 ≤ r ∧ r < y0 + 0 ∧ x0 ≤ c ∧ c < x0 + 8) := by omega
  simp only [spriteBit, this, decide_false, Bool.false_and]

theorem spriteBit_succ (s : State) (x0 y0 n r c : Nat) :
    spriteBit s x0 y0 (n + 1) r c =
      (spriteBit s x0 y0 n r c || byteBit (y0 + n) x0 (s.mem.read (s.dataAddr n)) 8 r c) := by
  by_cases hr : r = y0 + n
  · subst hr
    simp [spriteBit, byteBit, State.dataAddr]
  · have hlt : r < y0 + (n + 1) ↔ r < y0 + n := by omega
    simp [spriteBit, byteBit, hr, hlt]

/-- The sprite's bits depend on memory and I alone. -/
theorem spriteBit_congr {s t : State} (h : s.SameButDraw t) : spriteBit t = spriteBit s := by
  funext x0 y0 n r c
  rw [spriteBit, spriteBit, h.mem, h.i]

theorem draws_drawSprite (s : State) (x0 y0 n : Nat) :
    s.Draws (spriteBit s x0 y0 n) (s.drawSprite x0 y0 n) := by
  refine .foldl_range (covered := spriteBit s x0 y0)
    (part := fun k => byteBit (y0 + k) x0 (s.mem.read (s.dataAddr k)) 8) (fun t k ht => ?_)
    (spriteBit_zero s x0 y0) (spriteBit_succ s x0 y0) (fun k r c hb => ?_) n
  · have hbyte : t.mem.read (t.dataAddr k) = s.mem.read (s.dataAddr k) := by
      rw [State.dataAddr, State.dataAddr, ht.mem, ht.i]
    rw [← hbyte]
    exact t.draws_drawByte (y0 + k) x0 _
  · simp only [spriteBit, Bool.and_eq_true, decide_eq_true_eq] at hb
    obtain ⟨⟨-, hlt, -⟩, -⟩ := hb
    simp [byteBit, hlt.ne]

/-- Settles O37: DXYN draws the sprite's 1 bits on the state whose VF is 0x00. -/
theorem drawXorsSpriteCellByCell : Obligations.DrawXorsSpriteCellByCell := by
  rintro x y n s x0 y0 hrange rfl rfl
  have draws := draws_drawSprite (s.setVF 0x00) ((s.getV x).toNat % 64) ((s.getV y).toNat % 32) n.val
  refine ⟨_, exec_drw_of_inRange x y hrange, draws.cells, ?_, ?_, ?_, draws.frame, ?_⟩
  · rintro ⟨r, c, lit, on⟩
    exact draws.hit lit on
  · intro off
    exact (draws.miss off).trans (s.getV_setVF_regVF 0x00)
  · intro q hq
    exact (draws.others hq).trans (s.getV_setVF_of_ne 0x00 hq)
  · exact sameBytes_of_mem_eq draws.frame.mem

/-- Settles O38, by O37 twice: each cell is XORed twice with the same bit, and a 1 bit meets a lit cell in the
second draw exactly where it met a dark one in the first. -/
theorem drawTwiceRestoresDisplay : Obligations.DrawTwiceRestoresDisplay := by
  intro x y n s x0 y0 hrange hx0 hy0
  obtain ⟨t, ht, cells, -, -, others, frame, -⟩ := drawXorsSpriteCellByCell x y n s x0 y0 hrange hx0 hy0
  refine ⟨t, ht, fun hx => by rw [others x hx, hx0], fun hy => by rw [others y hy, hy0], fun hx hy => ?_⟩
  have same : s.SameButDraw t := frame
  obtain ⟨u, hu, cells', hit, miss, -, -, -⟩ :=
    drawXorsSpriteCellByCell x y n t x0 y0 (same.i ▸ hrange) hx.symm hy.symm
  rw [spriteBit_congr same] at cells' hit miss
  refine ⟨u, hu, ?_, ?_, ?_⟩
  · refine State.disp_eq_of_pixel s u fun r c => ?_
    rw [cells', cells, Bool.xor_assoc, Bool.xor_self, Bool.xor_false]
  · rintro ⟨r, c, dark, on⟩
    exact hit ⟨r, c, by rw [cells, dark, on]; rfl, on⟩
  · intro off
    refine miss fun r c lit => ?_
    rw [cells] at lit
    cases hs : s.pixel r c with
    | false => exact off r c hs
    | true => simpa [hs] using lit

/-- Settles O36: the grid is replaced by the blank one. -/
theorem clearMakesAllCellsFalse : Obligations.ClearMakesAllCellsFalse :=
  fun _ => ⟨_, rfl, State.pixel_of_disp_blank rfl, rfl, sameBytes_of_mem_eq rfl⟩

end Sys2Proof.Claims

/-! SUPPORT. Keypad and timers (spec/46_keypad_timers.md R160 to R165): the key instructions by cases of V[X],
the keypad scan of FX0A, the value it stores, and its decoding. -/

namespace Sys2Proof

/-- FX0A decodes as the key wait on V[X] (R78). -/
theorem decodeWord_encodeXNN_F0A (x : Reg) : decodeWord (encodeXNN 0xF x 0x0A) = .ldVxK x := by
  simp only [decodeWord, fieldC_encodeXNN, decodeF, fieldNN_encodeXNN, fieldX_encodeXNN]
  rfl

end Sys2Proof

namespace Sys2Proof.Machine

/-! ## EX9E and EXA1 where V[X] names a key (R160, R161) -/

theorem State.keyAtV_of_getV {s : State} {x : Reg} {k : Fin 16} (hk : (s.getV x).toNat = k.val) :
    s.keyAtV x = s.key k := by
  rw [State.keyAtV, hk, Fin.ofNat_val_eq_self]

theorem exec_skp_of_getV {x : Reg} {s : State} {k : Fin 16} (hk : (s.getV x).toNat = k.val) :
    exec (.skp x) s = .next (s.skipIf (s.key k)) := by
  have hok : s.keyIndexOk x = true := (s.keyIndexOk_iff x).mpr (by omega)
  simp only [exec, execSkp, hok, orRaise_true, State.keyAtV_of_getV hk]

theorem exec_sknp_of_getV {x : Reg} {s : State} {k : Fin 16} (hk : (s.getV x).toNat = k.val) :
    exec (.sknp x) s = .next (s.skipIf (!s.key k)) := by
  have hok : s.keyIndexOk x = true := (s.keyIndexOk_iff x).mpr (by omega)
  simp only [exec, execSknp, hok, orRaise_true, State.keyAtV_of_getV hk]

theorem State.skipIf_not_pc (s : State) (c : Bool) :
    (s.skipIf !c).pc = if c = true then s.pc else s.pc + 2 := by
  cases c <;> rfl

/-! ## The keypad scan of FX0A and the value it stores (R162) -/

theorem State.firstKeyDown_eq_none_iff (s : State) : s.firstKeyDown = none ↔ ∀ k, s.key k = false := by
  rw [State.firstKeyDown, ← Fin.find?_eq_find?_finRange, Fin.find?_eq_none_iff]

/-- The scan stops at the lowest key that is down. -/
theorem State.firstKeyDown_eq_some_iff (s : State) (k : Fin 16) :
    s.firstKeyDown = some k ↔ s.key k = true ∧ ∀ j, j < k → s.key j = false := by
  rw [State.firstKeyDown, ← Fin.find?_eq_find?_finRange, Fin.find?_eq_some_iff]

theorem toNat_keyStoreValue (storesIndex : Bool) (k : Fin 16) :
    (keyStoreValue storesIndex k).toNat = if storesIndex = true then k.val else 1 := by
  have hfits : k.val < 2 ^ 8 := by omega
  cases storesIndex with
  | true => exact (BitVec.toNat_ofNat k.val 8).trans (Nat.mod_eq_of_lt hfits)
  | false => rfl

end Sys2Proof.Machine

namespace Sys2Proof.Claims

open Sys2Proof.Machine

/-- Settles O39: an index up to 15 makes both a skip on its key, in opposite senses; above it R175's fault is
entered. -/
theorem keySkipsTestTheKey : Obligations.KeySkipsTestTheKey := by
  intro x s
  constructor
  · intro k hk
    exact ⟨⟨_, exec_skp_of_getV hk, onlyPc_skipIf s _, s.skipIf_pc (s.key k)⟩,
      ⟨_, exec_sknp_of_getV hk, onlyPc_skipIf s _, s.skipIf_not_pc (s.key k)⟩⟩
  · intro above
    exact ⟨exec_of_faultOf (if_pos above) nofun, exec_of_faultOf (if_pos above) nofun⟩

/-- Settles O40, by the two outcomes of the scan. -/
theorem keyWaitPollsKeypad : Obligations.KeyWaitPollsKeypad := by
  intro x s
  constructor
  · intro up
    exact ⟨_, execLdVxK_of_none x (s.firstKeyDown_eq_none_iff.mpr up), onlyPc_setPc s _, rfl⟩
  · intro k down lowest
    refine ⟨_, execLdVxK_of_some x ((s.firstKeyDown_eq_some_iff k).mpr ⟨down, lowest⟩),
      onlyReg_setV s x _, ?_⟩
    rw [State.getV_setV_self, toNat_keyStoreValue]

/-- Settles O41: the fetch adds 2 to PC and the key wait takes it back. -/
theorem keyWaitHoldsProgramCounter : Obligations.KeyWaitHoldsProgramCounter := by
  intro s left x hr hf hp hpc hn hw up
  have waits : (s.fetched left).firstKeyDown = none := (State.firstKeyDown_eq_none_iff _).mpr up
  have back : s.pc + 2 - 2 = s.pc := BitVec.add_sub_cancel s.pc 2
  calc step s
    _ = exec (.ldVxK x) (s.fetched left) := by
      rw [step_eq_exec_fetched hr hf hp hn hpc, hw, decodeWord_encodeXNN_F0A]
    _ = .next ((s.fetched left).setPc (s.pc + 2 - 2)) := execLdVxK_of_none x waits
    _ = .next { s with phase := .batch left, event := .none } := by rw [back]; rfl

/-- Settles O42: one write of V[X], of DT and of ST. -/
theorem timerLoads : Obligations.TimerLoads := by
  intro x s
  exact ⟨⟨_, rfl, s.getV_setV_self x s.dt, onlyReg_setV s x _⟩,
    ⟨_, rfl, rfl, rfl, sameBytes_of_mem_eq rfl⟩, ⟨_, rfl, rfl, rfl, sameBytes_of_mem_eq rfl⟩⟩

end Sys2Proof.Claims

/-! SUPPORT. Faults, ticks and the session (spec/60_exceptions.md R170 to R193): the machine's next move by
cases, step (a) and the end of a tick, the instruction of a batch as a function that does not look at `phase`,
and from these the moves of one tick. -/

namespace Sys2Proof.Machine

/-! ## The next move by cases (R185, R193, R212) -/

theorem State.nextMove_of_ended {s : State} (ended : s.ended = true) : s.nextMove = s.endedMove :=
  if_pos ended

theorem State.nextMove_of_boundary {s : State} (alive : s.ended = false) (place : s.phase = .boundary) :
    s.nextMove = s.boundaryMove := by
  simp only [State.nextMove, alive, place, Bool.false_eq_true, if_false]

/-- A delivered tick starts, and so does one without events where nothing is delivered (log 7). -/
theorem step_eq_beginTick {s : State} {input : TickInput} {rest : List HostEvent} (alive : s.ended = false)
    (place : s.phase = .boundary)
    (delivery : s.inbox = .tick input :: rest ∨ s.inbox = [] ∧ rest = [] ∧ input = TickInput.silent) :
    step s = .next ({ s with inbox := rest }.beginTick input) := by
  rw [step, State.nextMove_of_boundary alive place, State.boundaryMove]
  rcases delivery with hi | ⟨hi, rfl, rfl⟩
  · simp only [hi]
  · simp only [hi]
    rw [← hi]

theorem step_eq_of_resetInTick {s t : State} {left : Nat} (alive : s.ended = false)
    (place : s.phase = .batch left) (hr : s.resetInTick = some t) : step s = .next t := by
  simp only [step, State.nextMove, alive, place, State.tickMove, hr, Bool.false_eq_true, if_false]

/-- Between two ticks of a live session there is always a move. -/
theorem State.boundaryMove_eq_go (s : State) : ∃ t, s.boundaryMove = .go t := by
  unfold State.boundaryMove
  split <;> exact ⟨_, rfl⟩

/-! ## A tick's start and end (R186, R188, R190) -/

/-- `s` at another place of the tick sequence. -/
def State.withPhase (s : State) (place : Phase) : State := { s with phase := place }

@[simp] theorem State.withPhase_faultCause (s : State) (place : Phase) :
    (s.withPhase place).faultCause = s.faultCause := rfl

/-- The state after step (a). -/
def State.afterInput (s : State) (input : TickInput) : State := (s.emit .none).applyInput input

theorem State.applyKeys_emit (s : State) (e : Event) (events : List (Fin 16 × Bool)) :
    (s.emit e).applyKeys events = (s.applyKeys events).emit e :=
  List.foldl_hom (fun t : State => t.emit e) fun _ _ => rfl

/-- Step (a) writes the keys and the run state, and clears the last event. -/
theorem State.afterInput_frame (s : State) (input : TickInput) :
    s.afterInput input = { s with
      keys := (s.applyKeys input.keyEvents).keys
      runState := input.runRequest.getD s.runState
      event := .none } := by
  rw [State.afterInput, State.applyInput_frame, State.applyKeys_emit]
  rfl

theorem State.beginTick_eq (s : State) (input : TickInput) : s.beginTick input =
    if (s.afterInput input).runState = .quit then s.afterInput input
    else (s.afterInput input).withPhase (.batch (s.afterInput input).batchSize) := rfl

/-- Where step (a) leaves the tick: before a batch of IPT steps in RUNNING, of none in STOPPED, and over in
QUIT (R186, R187, R192). -/
def RunState.placeAfterInput (ipt : Nat) : RunState → Phase
  | .running => .batch ipt
  | .stopped => .batch 0
  | .quit => .boundary

/-- The start of a tick writes the keys, the run state and the place, and clears the last event. -/
theorem State.beginTick_frame {s : State} (input : TickInput) (hp : s.phase = .boundary) :
    s.beginTick input = { s with
      keys := (s.applyKeys input.keyEvents).keys
      runState := input.runRequest.getD s.runState
      phase := (input.runRequest.getD s.runState).placeAfterInput s.config.ipt
      event := .none } := by
  rw [State.beginTick_eq, State.afterInput_frame]
  generalize input.runRequest.getD s.runState = r
  cases r with
  | running | stopped => rfl
  | quit => rw [RunState.placeAfterInput, ← hp]; rfl

theorem toNat_countDown (b : Byte) : (countDown b).toNat = b.toNat - 1 := by
  unfold countDown
  split
  · next h => rw [h]; rfl
  · next h => bv_omega

theorem State.endTick_of_outside {s : State} (outside : 0x1000 ≤ s.pc.toNat) :
    s.endTick = s.raise .pcOutOfRange :=
  if_pos outside

theorem State.endTick_of_inside {s : State} (inside : s.pc.toNat < 0x1000) :
    s.endTick = { s with
      event := .display s.disp, dt := countDown s.dt, st := countDown s.st, phase := .boundary } :=
  if_neg (Nat.not_le.mpr inside)

theorem State.endTick_config (s : State) : s.endTick.config = s.config := by
  unfold State.endTick
  split <;> rfl

end Sys2Proof.Machine

namespace Sys2Proof.Claims

open Sys2Proof.Machine

/-- One more event at the end overrides what the events before it say of its key. -/
theorem lastPress_append_singleton (events : List (Fin 16 × Bool)) (e : Fin 16 × Bool) (k : Fin 16) :
    lastPress (events ++ [e]) k = if k = e.1 then some e.2 else lastPress events k := by
  by_cases h : k = e.1
  · simp [lastPress, h]
  · simp [lastPress, h, Ne.symm h]

/-- After the events of a tick each key is as its last event says (R186). -/
theorem key_applyKeys (s : State) (events : List (Fin 16 × Bool)) (k : Fin 16) :
    (s.applyKeys events).key k = (lastPress events k).getD (s.key k) := by
  induction events using List.reverseRecOn with
  | nil => rfl
  | append_singleton events e ih =>
    have hfold : s.applyKeys (events ++ [e]) = (s.applyKeys events).setKey e.1 e.2 :=
      List.foldl_append ..
    rw [hfold, State.key_setKey, lastPress_append_singleton, ih]
    split <;> rfl

end Sys2Proof.Claims

namespace Sys2Proof.Machine

/-! ## Instructions do not look at the place in the tick sequence -/

theorem State.skipIf_withPhase (s : State) (place : Phase) (c : Bool) :
    (s.withPhase place).skipIf c = (s.skipIf c).withPhase place := by
  cases c <;> rfl

theorem State.drawBit_withPhase (s : State) (place : Phase) (row col : Nat) (on : Bool) :
    (s.withPhase place).drawBit row col on = (s.drawBit row col on).withPhase place := by
  have hpixel (r : Fin 32) (c : Fin 64) : (s.withPhase place).pixel r c = s.pixel r c := rfl
  simp only [State.drawBit, hpixel]
  split_ifs <;> rfl

theorem State.drawByte_withPhase (s : State) (place : Phase) (row x0 : Nat) (b : Byte) :
    (s.withPhase place).drawByte row x0 b = (s.drawByte row x0 b).withPhase place :=
  List.foldl_hom (fun t => t.withPhase place)
    fun t c => State.drawBit_withPhase t place row (x0 + c) (b.getLsbD (7 - c))

theorem State.drawSprite_withPhase (s : State) (place : Phase) (x0 y0 n : Nat) :
    (s.withPhase place).drawSprite x0 y0 n = (s.drawSprite x0 y0 n).withPhase place :=
  List.foldl_hom (fun t => t.withPhase place)
    fun t r => State.drawByte_withPhase t place (y0 + r) x0 (t.mem.read (t.dataAddr r))

/-- A guard that does not look at `phase`, and a body that takes it along. -/
theorem orRaise_withPhase {ok : Bool} {cause : FaultCause} {s body body' t : State} {place : Phase}
    (hb : body' = body.withPhase place) (h : orRaise ok cause s body = .next t) :
    orRaise ok cause (s.withPhase place) body' = .next (t.withPhase place) := by
  subst hb
  cases ok <;> exact Host.Outcome.next.inj h ▸ rfl

theorem execLdVxK_withPhase {x : Reg} {s t : State} (place : Phase) (h : execLdVxK x s = .next t) :
    execLdVxK x (s.withPhase place) = .next (t.withPhase place) := by
  cases hk : s.firstKeyDown with
  | none =>
    obtain rfl := Host.Outcome.next.inj ((execLdVxK_of_none x hk).symm.trans h)
    exact execLdVxK_of_none x hk
  | some k =>
    obtain rfl := Host.Outcome.next.inj ((execLdVxK_of_some x hk).symm.trans h)
    exact execLdVxK_of_some x hk

theorem execRet_withPhase {s t : State} (place : Phase) (h : execRet s = .next t) :
    execRet (s.withPhase place) = .next (t.withPhase place) := by
  by_cases empty : s.sp.val = 0
  · obtain rfl := Host.Outcome.next.inj ((exec_ret_of_empty empty).symm.trans h)
    exact exec_ret_of_empty empty
  · obtain rfl := Host.Outcome.next.inj ((exec_ret_of_used empty).symm.trans h)
    exact exec_ret_of_used (s := s.withPhase place) empty

theorem execCall_withPhase {nnn : Imm12} {s t : State} (place : Phase) (h : execCall nnn s = .next t) :
    execCall nnn (s.withPhase place) = .next (t.withPhase place) := by
  by_cases room : s.sp.val < 12
  · obtain rfl := Host.Outcome.next.inj ((exec_call_of_room nnn room).symm.trans h)
    exact exec_call_of_room nnn (s := s.withPhase place) room
  · obtain rfl := Host.Outcome.next.inj ((dif_neg room).symm.trans h)
    exact dif_neg room

/-- No instruction looks at the place in the tick sequence or changes it. -/
theorem exec_withPhase {i : Instr} {s t : State} (place : Phase) (h : exec i s = .next t) :
    exec i (s.withPhase place) = .next (t.withPhase place) := by
  cases i with
  | ret => exact execRet_withPhase place h
  | call nnn => exact execCall_withPhase place h
  | ldVxK x => exact execLdVxK_withPhase place h
  | seImm | sneImm | seReg | sneReg =>
    exact Host.Outcome.next.inj h ▸ congrArg _ (s.skipIf_withPhase place _)
  | skp | sknp => exact orRaise_withPhase (s.skipIf_withPhase place _) h
  | drw => exact orRaise_withPhase ((s.setVF 0x00).drawSprite_withPhase place _ _ _) h
  | ldB | storeRegs | loadRegs => exact orRaise_withPhase rfl h
  | cls | sys | jp | ldImm | addImm | ldReg | orReg | andReg | xorReg | addReg | subReg | shr | subnReg | shl
  | ldI | jpV0 | rnd | ldVxDt | ldDtVx | ldStVx | addI | ldF | unrecognised8 | unrecognisedE
  | unrecognisedF => exact Host.Outcome.next.inj h ▸ rfl

end Sys2Proof.Machine

namespace Sys2Proof.Claims

open Sys2Proof.Machine

/-! ## The instruction of a batch as a function (R90 to R94) -/

theorem instrStep_of_outside {s : State} (outside : s.canFetch = false) :
    s.instrStep = s.raise .pcOutOfRange := by
  simp only [State.instrStep, State.instrMove, outside, Bool.false_eq_true, if_false]

/-- With PC in range `instrStep` is what the decoded instruction answers. -/
theorem exec_eq_next_instrStep {s : State} (inside : s.canFetch = true) :
    exec (decodeWord s.fetchWord) ((s.emit .none).setPc (s.pc + 2)) = .next s.instrStep := by
  obtain ⟨t, hx, -⟩ := exec_answers (decodeWord s.fetchWord) ((s.emit .none).setPc (s.pc + 2))
  simp only [State.instrStep, State.instrMove, inside, if_true, hx]

theorem instrStep_withPhase (s : State) (place : Phase) :
    (s.withPhase place).instrStep = s.instrStep.withPhase place := by
  cases hc : s.canFetch with
  | false =>
    rw [instrStep_of_outside hc, instrStep_of_outside (s := s.withPhase place) hc]
    rfl
  | true =>
    have hx := exec_withPhase place (exec_eq_next_instrStep hc)
    exact Host.Outcome.next.inj ((exec_eq_next_instrStep (s := s.withPhase place) hc).symm.trans hx)

/-- An instruction leaves the host's ports and the place in the tick sequence alone. -/
theorem exec_keeps_host {i : Instr} {s t : State} (h : exec i s = .next t) :
    t.config = s.config ∧ t.phase = s.phase ∧ t.inbox = s.inbox := by
  obtain ⟨u, hx, -, config, phase, inbox, -⟩ := instructionsNeverTouchHostState i s
  obtain rfl := Host.Outcome.next.inj (hx.symm.trans h)
  exact ⟨config, phase, inbox⟩

theorem instrStep_keeps_host (s : State) :
    s.instrStep.config = s.config ∧ s.instrStep.phase = s.phase ∧ s.instrStep.inbox = s.inbox := by
  cases hc : s.canFetch with
  | false => rw [instrStep_of_outside hc]; exact ⟨rfl, rfl, rfl⟩
  | true =>
    obtain ⟨config, phase, inbox⟩ := exec_keeps_host (exec_eq_next_instrStep hc)
    exact ⟨config, phase, inbox⟩

/-- Unless it faults, an instruction leaves the run state alone (R94). -/
theorem instrStep_runState {s : State} (hf : s.instrStep.faultCause = .none) :
    s.instrStep.runState = s.runState := by
  cases hc : s.canFetch with
  | false => rw [instrStep_of_outside hc] at hf; exact nomatch hf
  | true =>
    obtain ⟨t, hx, ha⟩ := exec_answers (decodeWord s.fetchWord) ((s.emit .none).setPc (s.pc + 2))
    obtain rfl := Host.Outcome.next.inj ((exec_eq_next_instrStep hc).symm.trans hx)
    cases ha with
    | faults fault result => rw [result] at hf; exact absurd hf fault
    | completes _ frame => exact frame.runState

/-! ## The moves inside a tick (R185, R212) -/

theorem not_resetLands_of_batch {s : State} {left : Nat} (alive : s.ended = false) (hp : s.phase = .batch left)
    (stays : ∀ config font rom rest, s.inbox ≠ .reset s.phase config font rom :: rest) : ¬ ResetLands s := by
  rintro ⟨place, config, font, rom, rest, hi, ended | boundary | here⟩
  · exact absurd ended (by simp [alive])
  · exact nomatch hp.symm.trans boundary
  · exact stays config font rom rest (here ▸ hi)

theorem step_eq_endTick {s : State} (alive : s.ended = false) (place : s.phase = .batch 0)
    (hn : ¬ ResetLands s) : step s = .next s.endTick := by
  rw [step, State.nextMove_of_batch s 0 alive place (inbox_ne_of_not_resetLands hn), State.batchMove]

/-- Where no reset lands, a move inside a batch is one instruction, with one step less left (R185). -/
theorem step_eq_instrStep {s : State} {left : Nat} (hr : s.runState = .running) (hf : s.faultCause = .none)
    (hp : s.phase = .batch (left + 1)) (hn : ¬ ResetLands s) :
    step s = .next (s.withPhase (.batch left)).instrStep := by
  cases hc : s.canFetch with
  | false =>
    rw [instrStep_of_outside (s := s.withPhase (.batch left)) hc]
    exact step_eq_raise_pcOutOfRange hr hf hp hn (Nat.lt_of_not_le (of_decide_eq_false hc))
  | true =>
    exact (step_eq_exec_fetched hr hf hp hn (of_decide_eq_true hc)).trans
      (exec_eq_next_instrStep (s := s.withPhase (.batch left)) hc)

end Sys2Proof.Claims

namespace Sys2Proof.Machine

/-! ## From a tick boundary to the next (R185) -/

theorem State.batchSize_le (s : State) : s.batchSize ≤ s.config.ipt := by
  unfold State.batchSize
  split
  · exact le_rfl
  · exact Nat.zero_le _

theorem State.running_of_batchSize_pos {s : State} (h : 0 < s.batchSize) : s.runState = .running := by
  by_contra hr
  rw [State.batchSize, if_neg hr] at h
  exact absurd h (Nat.lt_irrefl 0)

/-- In STOPPED nothing runs (R192). -/
theorem State.runBatch_batchSize (s : State) : State.runBatch s.batchSize s =
    if s.runState = .running then State.runBatch s.config.ipt s else s := by
  unfold State.batchSize
  split <;> rfl

theorem State.wholeTick_eq (s : State) (input : TickInput) : s.wholeTick input =
    if (s.afterInput input).runState = .quit then s.afterInput input
    else (State.runBatch (s.afterInput input).batchSize (s.afterInput input)).closeTick := by
  rw [State.runBatch_batchSize]
  rfl

/-- After a fault nothing more of the tick happens (R185). -/
theorem State.closeTick_of_fault {s : State} (hf : s.faultCause ≠ .none) : s.closeTick = s :=
  if_pos hf

theorem State.closeTick_of_outside {s : State} (hf : s.faultCause = .none) (outside : 0x1000 ≤ s.pc.toNat) :
    s.closeTick = s.raise .pcOutOfRange := by
  rw [State.closeTick, if_neg (not_not.mpr hf), if_pos outside]

theorem State.closeTick_of_inside {s : State} (hf : s.faultCause = .none) (inside : s.pc.toNat < 0x1000) :
    s.closeTick = { s with event := .display s.disp, dt := countDown s.dt, st := countDown s.st } := by
  rw [State.closeTick, if_neg (not_not.mpr hf), if_neg (Nat.not_le.mpr inside)]

theorem run_succ {s t : State} (h : step s = .next t) (n : Nat) :
    Host.Core.run Sys2Proof.core (n + 1) s = Host.Core.run Sys2Proof.core n t := by
  simp only [Host.Core.run, Sys2Proof.core, h]

/-- The tick is through in `t`, and `u` is its state between two ticks. -/
def TickDone (t u : State) : Prop :=
  (t.ended = true ∨ t.phase = .boundary) ∧ t.withPhase .boundary = u

/-- At most `bound` moves take `s` through the tick, to the state `u` between two ticks. -/
def DoneWithin (bound : Nat) (s u : State) : Prop :=
  ∃ (n : Nat) (t : State), n ≤ bound ∧ Host.Core.run Sys2Proof.core n s = .next t ∧ TickDone t u

theorem DoneWithin.of_done {s u : State} (h : TickDone s u) (bound : Nat) : DoneWithin bound s u :=
  ⟨0, s, Nat.zero_le bound, rfl, h⟩

theorem DoneWithin.mono {bound bound' : Nat} {s u : State} (h : DoneWithin bound s u) (hle : bound ≤ bound') :
    DoneWithin bound' s u := by
  obtain ⟨n, t, hn, hdone⟩ := h
  exact ⟨n, t, hn.trans hle, hdone⟩

theorem DoneWithin.of_step {bound : Nat} {s t u : State} (hs : step s = .next t) (h : DoneWithin bound t u) :
    DoneWithin (bound + 1) s u := by
  obtain ⟨n, t', hn, hrun, hdone⟩ := h
  exact ⟨n + 1, t', Nat.succ_le_succ hn, (run_succ hs n).trans hrun, hdone⟩

/-- A fault ends the session, and the tick with it. -/
theorem tickDone_of_fault {t : State} (hf : t.faultCause ≠ .none) : TickDone t (t.withPhase .boundary) :=
  ⟨.inl (t.ended_iff.mpr (.inr hf)), rfl⟩

/-- The move that ends a tick does steps (d) to (f) (R188 to R190). -/
theorem tickDone_endTick {s : State} (hf : s.faultCause = .none) :
    TickDone s.endTick (s.withPhase .boundary).closeTick := by
  by_cases outside : 0x1000 ≤ s.pc.toNat
  · rw [State.endTick_of_outside outside, State.closeTick_of_outside (s := s.withPhase .boundary) hf outside]
    exact ⟨.inl rfl, rfl⟩
  · have inside : s.pc.toNat < 0x1000 := Nat.lt_of_not_le outside
    rw [State.endTick_of_inside inside, State.closeTick_of_inside (s := s.withPhase .boundary) hf inside]
    exact ⟨.inr rfl, rfl⟩

end Sys2Proof.Machine

namespace Sys2Proof.Claims

open Sys2Proof.Machine

/-- A live session inside a tick, with `left` steps of the batch to run and no reset to come before its end. -/
structure InTick (left : Nat) (s : State) : Prop where
  live : s.runState ≠ .quit
  noFault : s.faultCause = .none
  running : 0 < left → s.runState = .running
  place : s.phase = .batch left
  stays : ∀ k config font rom rest, k ≤ left → s.inbox ≠ .reset (.batch k) config font rom :: rest

theorem InTick.alive {left : Nat} {s : State} (h : InTick left s) : s.ended = false :=
  (State.ended_eq_false_iff s).mpr ⟨h.live, h.noFault⟩

theorem InTick.not_resetLands {left : Nat} {s : State} (h : InTick left s) : ¬ ResetLands s :=
  not_resetLands_of_batch h.alive h.place fun config font rom rest =>
    h.place ▸ h.stays left config font rom rest le_rfl

/-- One instruction that does not fault leaves the tick one step further. -/
theorem InTick.instrStep {left : Nat} {s : State} (h : InTick (left + 1) s)
    (hf : (s.withPhase (.batch left)).instrStep.faultCause = .none) :
    InTick left (s.withPhase (.batch left)).instrStep := by
  obtain ⟨-, phase, inbox⟩ := instrStep_keeps_host (s.withPhase (.batch left))
  have runState : (s.withPhase (.batch left)).instrStep.runState = .running :=
    (instrStep_runState hf).trans (h.running left.succ_pos)
  exact {
    live := by simp [runState]
    noFault := hf
    running := fun _ => runState
    place := phase
    stays := fun k config font rom rest hk =>
      inbox ▸ h.stays k config font rom rest (Nat.le_succ_of_le hk) }

/-- The moves of a batch and of the tick's end, by induction on the steps left, do what `runBatch` and
`closeTick` do between two ticks. -/
theorem InTick.doneWithin (left : Nat) : ∀ {s : State}, InTick left s →
    DoneWithin (left + 1) s (State.runBatch left (s.withPhase .boundary)).closeTick := by
  induction left with
  | zero =>
    intro s h
    exact .of_step (step_eq_endTick h.alive h.place h.not_resetLands)
      (.of_done (tickDone_endTick h.noFault) 0)
  | succ left ih =>
    intro s h
    have hstep := step_eq_instrStep (h.running left.succ_pos) h.noFault h.place h.not_resetLands
    have hphase : (s.withPhase .boundary).instrStep =
        (s.withPhase (.batch left)).instrStep.withPhase .boundary :=
      instrStep_withPhase (s.withPhase (.batch left)) .boundary
    refine .of_step hstep ?_
    rw [State.runBatch, hphase, State.withPhase_faultCause]
    generalize hu : (s.withPhase (.batch left)).instrStep = u
    by_cases hf : u.faultCause = .none
    · rw [if_pos hf]
      exact ih (hu ▸ h.instrStep (hu ▸ hf))
    · rw [if_neg hf, State.closeTick_of_fault (s := u.withPhase .boundary) hf]
      exact .of_done (tickDone_of_fault hf) (left + 1)

/-- A batch begins with the steps of R187 in RUNNING and with none in STOPPED. -/
theorem inTick_beginBatch {s : State} (live : s.runState ≠ .quit) (hf : s.faultCause = .none)
    (stays : ∀ k config font rom rest, k ≤ s.config.ipt → s.inbox ≠ .reset (.batch k) config font rom :: rest) :
    InTick s.batchSize (s.withPhase (.batch s.batchSize)) where
  live := live
  noFault := hf
  running := State.running_of_batchSize_pos
  place := rfl
  stays k config font rom rest hk := stays k config font rom rest (hk.trans s.batchSize_le)

/-- Settles O48: with QUIT the tick is over after one move, else `InTick.doneWithin` takes it to its end. -/
theorem movesOfATickAreTheTickSequence : Obligations.MovesOfATickAreTheTickSequence := by
  intro s input rest hq hf hp delivery stays
  have alive : s.ended = false := (State.ended_eq_false_iff s).mpr ⟨hq, hf⟩
  have hstep := step_eq_beginTick alive hp delivery
  have hframe := State.afterInput_frame { s with inbox := rest } input
  suffices h : DoneWithin (s.config.ipt + 2) s (State.wholeTick { s with inbox := rest } input) by
    obtain ⟨n, t, hn, hrun, hdone, hwhole⟩ := h
    exact ⟨n, t, hn, hrun, hdone, hwhole⟩
  refine .of_step hstep ?_
  rw [State.beginTick_eq, State.wholeTick_eq]
  generalize State.afterInput { s with inbox := rest } input = a at hframe
  have config : a.config = s.config := by rw [hframe]
  have inbox : a.inbox = rest := by rw [hframe]
  have noFault : a.faultCause = .none := by rw [hframe]; exact hf
  have place : a.withPhase .boundary = a := by rw [hframe, State.withPhase, hp]
  by_cases quit : a.runState = .quit
  · rw [if_pos quit, if_pos quit]
    exact .of_done ⟨.inl (a.ended_iff.mpr (.inl quit)), place⟩ _
  · rw [if_neg quit, if_neg quit]
    have hdone := InTick.doneWithin a.batchSize (inTick_beginBatch quit noFault (by rwa [config, inbox]))
    have back : (a.withPhase (.batch a.batchSize)).withPhase .boundary = a := place
    rw [back] at hdone
    exact hdone.mono (Nat.succ_le_succ (config ▸ a.batchSize_le))

/-! ## Single moves and fault entry -/

/-- Settles O45: step (a) on the delivered tick, then the batch that the run state asks for. -/
theorem tickStartsWithHostInput : Obligations.TickStartsWithHostInput := by
  intro s input rest hq hf hp hi
  have alive : s.ended = false := (State.ended_eq_false_iff s).mpr ⟨hq, hf⟩
  have hstep := step_eq_beginTick alive hp (.inl hi)
  rw [State.beginTick_frame (s := { s with inbox := rest }) input hp] at hstep
  exact ⟨_, hstep, key_applyKeys { s with inbox := rest } input.keyEvents, rfl, rfl, rfl⟩

/-- Settles O49: of the moves of `step_moved` that are no reset none writes the configuration, and from QUIT
only the dropped tick is left. -/
theorem onlyResetLeavesQuitOrChangesConfiguration : Obligations.OnlyResetLeavesQuitOrChangesConfiguration := by
  intro s t h hn
  have quit_absurd (alive : s.ended = false) : s.runState = .quit → t.runState = .quit :=
    fun quit => absurd quit ((State.ended_eq_false_iff s).mp alive).1
  cases step_moved s t h with
  | ignoredTick input rest ended delivery result => subst result; exact ⟨rfl, id⟩
  | reset place config font rom rest delivery lands result =>
    exact absurd ⟨place, config, font, rom, rest, delivery, lands⟩ hn
  | tickStarts input rest alive place delivery result =>
    have config : t.config = s.config := by
      rw [result, State.beginTick_frame (s := { s with inbox := rest }) input place]
    exact ⟨config, quit_absurd alive⟩
  | tickEnds alive place stays result => exact ⟨result ▸ s.endTick_config, quit_absurd alive⟩
  | fetchFault left alive running place stays outside result => exact ⟨result ▸ rfl, quit_absurd alive⟩
  | instruction left alive running place stays inside result =>
    exact ⟨(exec_keeps_host result).1, quit_absurd alive⟩

/-- Settles O57: between ticks a tick starts or a reset comes; inside one a reset comes, the tick ends, or an
instruction runs, since a batch with steps left is RUNNING. -/
theorem liveSessionAlwaysMoves : Obligations.LiveSessionAlwaysMoves := by
  intro s hs alive
  obtain ⟨live, noFault⟩ := (State.ended_eq_false_iff s).mp alive
  match hp : s.phase with
  | .boundary =>
    obtain ⟨t, ht⟩ := s.boundaryMove_eq_go
    exact ⟨t, by rw [step, State.nextMove_of_boundary alive hp, ht]⟩
  | .batch left =>
    cases hr : s.resetInTick with
    | some t => exact ⟨t, step_eq_of_resetInTick alive hp hr⟩
    | none =>
      have hn := not_resetLands_of_batch alive hp ((State.resetInTick_eq_none_iff s).mp hr)
      cases left with
      | zero => exact ⟨_, step_eq_endTick alive hp hn⟩
      | succ left =>
        have running : s.runState = .running := by
          cases h : s.runState with
          | running => rfl
          | stopped => exact absurd h (hs.batchRuns left hp)
          | quit => exact absurd h live
        exact ⟨_, step_eq_instrStep running noFault hp hn⟩

/-- Settles O35: each is the fault of R170's table, and `exec_of_faultOf` enters it. -/
theorem dataAccessAboveMemoryFaults : Obligations.DataAccessAboveMemoryFaults := by
  intro x y n s
  refine ⟨fun h => ?_, fun h => ⟨?_, ?_⟩, fun hn h => ?_⟩
  · exact exec_of_faultOf (if_pos h) nofun
  · exact exec_of_faultOf (if_pos h) nofun
  · exact exec_of_faultOf (if_pos h) nofun
  · exact exec_of_faultOf (if_pos ⟨hn, h⟩) nofun

/-- Settles O43: `State.raise` is fault entry written out. -/
theorem faultEntryRecordsCauseAndPc : Obligations.FaultEntryRecordsCauseAndPc :=
  fun s cause => ⟨s.raise_faultCause cause, s.raise_faultPc cause, s.raise_runState cause,
    s.raise_event cause, rfl⟩

/-- Settles O44: the move of a session that is over, without a delivery and with a tick. -/
theorem endedSessionIsFrozen : Obligations.EndedSessionIsFrozen := by
  intro s h
  have hmove : s.nextMove = s.endedMove := State.nextMove_of_ended (s.ended_iff.mpr h)
  constructor
  · intro hi
    rw [step, hmove, State.endedMove, hi]
  · intro input rest hi
    rw [step, hmove, State.endedMove, hi]

/-- Settles O47: PC outside memory is the fault, PC inside publishes the grid and counts down. -/
theorem tickEndsWithCheckPublishAndTimers : Obligations.TickEndsWithCheckPublishAndTimers := by
  intro s hq hf hp hn
  have hstep := step_eq_endTick ((State.ended_eq_false_iff s).mpr ⟨hq, hf⟩) hp hn
  constructor
  · intro outside
    rw [hstep, State.endTick_of_outside outside, raise_eq_faulted]
  · intro inside
    rw [State.endTick_of_inside inside] at hstep
    exact ⟨_, hstep, rfl, Display.length_flat s.disp, Display.flat_getElem? s, toNat_countDown s.dt,
      toNat_countDown s.st, rfl, rfl⟩

end Sys2Proof.Claims

/-! SUPPORT. The round trip of the encoding (spec/30_encoding.md R70 to R81): the catch-all arms of the dispatch,
decoding of an encoded instruction, and well-formedness of a decoded one. -/

namespace Sys2Proof

/-! ## The arms for unrecognised opcodes (R76 to R78, R80) -/

theorem decode8_of_not_selects8 {w : Word} (h : selects8 (fieldN w) = false) :
    decode8 w = .unrecognised8 (fieldX w) (fieldY w) (fieldN w) := by
  unfold decode8
  split
  case h_10 => rfl
  all_goals
    next hn => simp [selects8, hn] at h

theorem decodeE_of_not_selectsE {w : Word} (h : selectsE (fieldNN w) = false) :
    decodeE w = .unrecognisedE (fieldX w) (fieldNN w) := by
  unfold decodeE
  split
  case h_3 => rfl
  all_goals
    next hnn => simp [selectsE, ← BitVec.toNat_inj, hnn] at h

theorem decodeF_of_not_selectsF {w : Word} (h : selectsF (fieldNN w) = false) :
    decodeF w = .unrecognisedF (fieldX w) (fieldNN w) := by
  unfold decodeF
  split
  case h_10 => rfl
  all_goals
    next hnn => simp [selectsF, ← BitVec.toNat_inj, hnn] at h

/-- 0NNN but 00E0 and 00EE (R75). -/
theorem decode0_encodeNNN (c : Nibble) {nnn : Imm12} (hcls : nnn ≠ 0x0E0) (hret : nnn ≠ 0x0EE) :
    decode0 (encodeNNN c nnn) = .sys nnn := by
  rw [decode0, fieldNNN_encodeNNN, if_neg hcls, if_neg hret]

/-! ## Decoding what is encoded -/

/-- An encoded instruction is read back, unless a more specific row owns its opcode (R85). -/
theorem decodeWord_encodeWord (i : Instr) (h : i.wf = true) : decodeWord (encodeWord i) = i := by
  cases i with
  | sys nnn =>
    obtain ⟨hcls, hret⟩ : nnn ≠ 0x0E0 ∧ nnn ≠ 0x0EE := by simpa [Instr.wf] using h
    simp [encodeWord, decodeWord, decode0_encodeNNN 0x0 hcls hret]
  | unrecognised8 x y n =>
    have hn : selects8 n = false := by simpa [Instr.wf] using h
    simp [encodeWord, decodeWord, decode8_of_not_selects8, hn]
  | unrecognisedE x nn =>
    have hnn : selectsE nn = false := by simpa [Instr.wf] using h
    simp [encodeWord, decodeWord, decodeE_of_not_selectsE, hnn]
  | unrecognisedF x nn =>
    have hnn : selectsF nn = false := by simpa [Instr.wf] using h
    simp [encodeWord, decodeWord, decodeF_of_not_selectsF, hnn]
  | cls | ret => simp [encodeWord, decodeWord, decode0]
  | ldReg | orReg | andReg | xorReg | addReg | subReg | shr | subnReg | shl =>
    simp [encodeWord, decodeWord, decode8]
  | skp | sknp => simp [encodeWord, decodeWord, decodeE]
  | ldVxDt | ldVxK | ldDtVx | ldStVx | addI | ldF | ldB | storeRegs | loadRegs =>
    simp [encodeWord, decodeWord, decodeF]
  | jp | call | ldI | jpV0 | seImm | sneImm | ldImm | addImm | rnd | seReg | sneReg | drw =>
    simp [encodeWord, decodeWord]

/-! ## Well-formedness of what is decoded (R81) -/

theorem wf_decode0 (w : Word) : (decode0 w).wf = true := by
  unfold decode0
  split_ifs with hcls hret
  case neg => simpa [Instr.wf] using And.intro hcls hret
  all_goals rfl

theorem wf_decode8 (w : Word) : (decode8 w).wf = true := by
  unfold decode8
  split
  case h_10 =>
    have hn : 7 < (fieldN w).val ∧ (fieldN w).val ≠ 0xE := by
      simp only [imp_false] at *
      omega
    simpa [Instr.wf, selects8] using hn
  all_goals rfl

theorem wf_decodeE (w : Word) : (decodeE w).wf = true := by
  unfold decodeE
  split
  case h_3 h9E hA1 => simpa [Instr.wf, selectsE, ← BitVec.toNat_inj] using And.intro h9E hA1
  all_goals rfl

theorem wf_decodeF (w : Word) : (decodeF w).wf = true := by
  unfold decodeF
  split
  case h_10 => simp_all [Instr.wf, selectsF, ← BitVec.toNat_inj]
  all_goals rfl

theorem wf_decodeWord (w : Word) : (decodeWord w).wf = true := by
  unfold decodeWord
  split
  case h_1 => exact wf_decode0 w
  case h_9 => exact wf_decode8 w
  case h_15 => exact wf_decodeE w
  case h_16 => exact wf_decodeF w
  all_goals rfl

end Sys2Proof

namespace Sys2Proof.Claims

open Sys2Proof.Machine

/-- Settles O1: the two bytes give the opcode back, and the opcode the instruction. -/
theorem decodeOfEncodeIsIdentity : Obligations.DecodeOfEncodeIsIdentity := by
  intro i rest h
  rw [encode, List.cons_append, List.cons_append, List.nil_append, decode_cons_cons,
    wordOfBytes_highByte_lowByte, decodeWord_encodeWord i h]

/-- Settles O2, by the arms of the dispatch. -/
theorem encodeOfDecodeIsIdentity : Obligations.EncodeOfDecodeIsIdentity :=
  fun w => ⟨wf_decodeWord w, encodeWord_decodeWord w⟩

/-- Settles O5: the skip with any nibble is well-formed, and no skip reads its nibble (D12). -/
theorem lowNibbleOfRegisterSkipsIsIgnored : Obligations.LowNibbleOfRegisterSkipsIsIgnored :=
  fun x y n _ => ⟨decodeWord_encodeWord (.seReg x y n) rfl, decodeWord_encodeWord (.sneReg x y n) rfl,
    rfl, rfl⟩

end Sys2Proof.Claims

/-! SUPPORT. Memory as what it reads (spec/20_memory.md R51, R57): a canonical list is determined by its reads. -/

namespace Sys2Proof.Machine

theorem Memory.wfFrom_cons_iff (lo k : Nat) (b : Byte) (rest : Memory) :
    Memory.wfFrom lo ((k, b) :: rest) = true ↔
      lo ≤ k ∧ k < 4096 ∧ b ≠ Memory.background k ∧ Memory.wfFrom (k + 1) rest = true := by
  simp [Memory.wfFrom, and_assoc]

theorem Memory.read_cons_self (k : Nat) (b : Byte) (rest : Memory) :
    Memory.read ((k, b) :: rest) k = b :=
  if_pos rfl

/-- Above its first entry a list reads as its rest. -/
theorem Memory.read_cons_of_lt {k a : Nat} (b : Byte) (rest : Memory) (h : k < a) :
    Memory.read ((k, b) :: rest) a = rest.read a :=
  if_neg h.ne

/-- An entry that is not the background's shows: a list whose entries all lie above `k` reads otherwise there. -/
theorem Memory.read_cons_self_ne {k : Nat} {b : Byte} (hb : b ≠ Memory.background k) (rest : Memory)
    {m : Memory} (hm : Memory.wfFrom (k + 1) m = true) : Memory.read ((k, b) :: rest) k ≠ m.read k := by
  rwa [Memory.read_cons_self, Memory.read_of_lt m (k + 1) k hm k.lt_succ_self]

/-- Lists in canonical form that read alike have the same first entry, and rests that read alike. -/
theorem Memory.eq_of_read_eq : ∀ (m m' : Memory) (lo : Nat), Memory.wfFrom lo m = true →
    Memory.wfFrom lo m' = true → (∀ a, a < 4096 → m.read a = m'.read a) → m = m'
  | [], [], _, _, _, _ => rfl
  | [], (k, b) :: rest, lo, _, hm', hread => by
    obtain ⟨-, hk, hb, -⟩ := (Memory.wfFrom_cons_iff lo k b rest).mp hm'
    exact absurd (hread k hk).symm (Memory.read_cons_self_ne hb rest rfl)
  | (k, b) :: rest, [], lo, hm, _, hread => by
    obtain ⟨-, hk, hb, -⟩ := (Memory.wfFrom_cons_iff lo k b rest).mp hm
    exact absurd (hread k hk) (Memory.read_cons_self_ne hb rest rfl)
  | (k, b) :: rest, (k', b') :: rest', lo, hm, hm', hread => by
    obtain ⟨-, hk, hb, hrest⟩ := (Memory.wfFrom_cons_iff lo k b rest).mp hm
    obtain ⟨-, hk', hb', hrest'⟩ := (Memory.wfFrom_cons_iff lo k' b' rest').mp hm'
    rcases lt_trichotomy k k' with hlt | rfl | hlt
    · have above : Memory.wfFrom (k + 1) ((k', b') :: rest') = true :=
        (Memory.wfFrom_cons_iff ..).mpr ⟨hlt, hk', hb', hrest'⟩
      exact absurd (hread k hk) (Memory.read_cons_self_ne hb rest above)
    · have hbyte : b = b' := by simpa only [Memory.read_cons_self] using hread k hk
      have hreads (a : Nat) (ha : a < 4096) : Memory.read rest a = Memory.read rest' a := by
        by_cases hlt : k < a
        · simpa only [Memory.read_cons_of_lt _ _ hlt] using hread a ha
        · rw [Memory.read_of_lt rest (k + 1) a hrest (by omega),
            Memory.read_of_lt rest' (k + 1) a hrest' (by omega)]
      rw [hbyte, Memory.eq_of_read_eq rest rest' (k + 1) hrest hrest' hreads]
    · have above : Memory.wfFrom (k' + 1) ((k, b) :: rest) = true :=
        (Memory.wfFrom_cons_iff ..).mpr ⟨hlt, hk, hb, hrest⟩
      exact absurd (hread k' hk').symm (Memory.read_cons_self_ne hb' rest' above)

end Sys2Proof.Machine

namespace Sys2Proof.Claims

open Sys2Proof.Machine

/-- Settles O7, by induction along the two lists: they have the same first entry, or the lower one's address
tells them apart. -/
theorem canonicalMemoryIsItsReads : Obligations.CanonicalMemoryIsItsReads :=
  fun m m' hm hm' hread => Memory.eq_of_read_eq m m' 0 hm hm' hread

/-- Settles O6: rewriting a byte leaves all reads alone, and so the list (O7). -/
theorem readReturnsLastByteWritten : Obligations.ReadReturnsLastByteWritten := by
  intro m a b hm ha
  refine ⟨Memory.read_write_same m a b hm ha, fun a' hne => Memory.read_write_of_ne m a a' b hne, ?_⟩
  refine canonicalMemoryIsItsReads _ m (Memory.write_wf m a _ hm) hm fun a' _ => ?_
  by_cases heq : a' = a
  · subst heq
    exact Memory.read_write_same m a' _ hm ha
  · exact Memory.read_write_of_ne m a a' _ heq

end Sys2Proof.Claims

/-! SUPPORT. Which registers an instruction writes (spec/10_state.md R22): none but the ones it names, and VF
where it writes a flag; a flag is 0x00 or 0x01. -/

namespace Sys2Proof.Machine

/-! ## Flags (R22) -/

/-- The values of a flag. -/
def IsFlag (b : Byte) : Prop := b = 0x00 ∨ b = 0x01

theorem isFlag_flagByte (c : Bool) : IsFlag (flagByte c) := by
  cases c with
  | false => exact .inl rfl
  | true => exact .inr rfl

theorem isFlag_of_toNat_lt_two {b : Byte} (h : b.toNat < 2) : IsFlag b := by
  unfold IsFlag
  bv_omega

theorem isFlag_rightBitOut (a : Byte) : IsFlag (rightBitOut a) :=
  isFlag_of_toNat_lt_two (by rw [toNat_rightBitOut]; omega)

theorem isFlag_leftBitOut (a : Byte) : IsFlag (leftBitOut a) :=
  isFlag_of_toNat_lt_two (by have := a.isLt; rw [toNat_leftBitOut]; omega)

/-- VF after drawing on a state where it is 0x00 (R152). -/
theorem State.Draws.isFlag {m : Nat → Nat → Bool} {s t : State} (h : s.Draws m t)
    (hs : s.getV regVF = 0x00) : IsFlag (t.getV regVF) := by
  by_cases collision : ∃ (r : Fin 32) (c : Fin 64), s.pixel r c = true ∧ m r c = true
  · obtain ⟨r, c, lit, on⟩ := collision
    exact .inr (h.hit lit on)
  · refine .inl ((h.miss fun r c lit => ?_).trans hs)
    exact Bool.eq_false_iff.mpr fun on => collision ⟨r, c, lit, on⟩

/-! ## Registers kept -/

/-- A fault writes no register. -/
theorem getV_of_orRaise {ok : Bool} {cause : FaultCause} {s body t : State} {r : Reg}
    (h : orRaise ok cause s body = .next t) (hb : body.getV r = s.getV r) : t.getV r = s.getV r := by
  obtain rfl := Host.Outcome.next.inj h
  cases ok with
  | true => exact hb
  | false => rfl

theorem getV_of_flagThen {i : Instr} {s t : State} {f : Byte} {op : Byte → Byte → Byte} {x y r : Reg}
    (hx : exec i s = .next (s.flagThen f op x y)) (h : exec i s = .next t) (hrx : r ≠ x) (hf : r ≠ regVF) :
    t.getV r = s.getV r := by
  obtain rfl := Host.Outcome.next.inj (hx.symm.trans h)
  exact s.getV_flagThen_of_ne f op y hrx hf

theorem isFlag_of_flagThen {i : Instr} {s t : State} {f : Byte} {op : Byte → Byte → Byte} {x y : Reg}
    (hx : exec i s = .next (s.flagThen f op x y)) (h : exec i s = .next t) (hf : IsFlag f)
    (hne : x ≠ regVF) : IsFlag (t.getV regVF) := by
  obtain rfl := Host.Outcome.next.inj (hx.symm.trans h)
  rwa [State.getV_flagThen_regVF s f op y hne]

/-- FX0A writes V[X] or nothing. -/
theorem getV_of_execLdVxK {x r : Reg} {s t : State} (h : execLdVxK x s = .next t) (hr : r ≠ x) :
    t.getV r = s.getV r := by
  cases hk : s.firstKeyDown with
  | none =>
    obtain rfl := Host.Outcome.next.inj ((execLdVxK_of_none x hk).symm.trans h)
    rfl
  | some k =>
    obtain rfl := Host.Outcome.next.inj ((execLdVxK_of_some x hk).symm.trans h)
    exact s.getV_setV_of_ne _ hr

end Sys2Proof.Machine

namespace Sys2Proof.Claims

open Sys2Proof.Machine

/-- The registers of an instruction whose frame leaves them out. -/
theorem getV_of_writtenFrom {i : Instr} {s t : State} (h : exec i s = .next t)
    (hv : ∀ u, (writtenFrom i s u).v = s.v) (r : Reg) : t.getV r = s.getV r := by
  obtain ⟨u, hx, ha⟩ := exec_answers i s
  obtain rfl := Host.Outcome.next.inj (hx.symm.trans h)
  cases ha with
  | faults _ result => rw [result]; rfl
  | completes _ frame => exact State.getV_congr s u (frame ▸ hv u) r

theorem ne_of_beq_eq_false {x r : Reg} (h : (x == r) = false) : r ≠ x :=
  (beq_eq_false_iff_ne.mp h).symm

/-- DXYN draws on the state whose VF is 0x00. -/
theorem getV_of_execDrw {x y : Reg} {n : Nibble} {r : Reg} {s t : State}
    (h : execDrw x y n s = .next t) (hr : r ≠ regVF) : t.getV r = s.getV r :=
  getV_of_orRaise h (((draws_drawSprite ..).others hr).trans (s.getV_setVF_of_ne 0x00 hr))

/-- An instruction keeps every register that it does not name, and VF if it writes no flag. -/
theorem exec_getV_of_not_names {i : Instr} {s t : State} {r : Reg} (h : exec i s = .next t)
    (hr : names i r = false) (hf : writesFlag i = true → r ≠ regVF) : t.getV r = s.getV r := by
  cases i with
  | ldImm | addImm | ldReg | orReg | andReg | xorReg | rnd | ldVxDt =>
    obtain rfl := Host.Outcome.next.inj h
    exact State.getV_setV_of_ne _ _ (ne_of_beq_eq_false hr)
  | addReg x y =>
    obtain rfl := Host.Outcome.next.inj h
    exact (onlyRegAndVF_setV_setVF s x _ _).2 r (ne_of_beq_eq_false hr) (hf rfl)
  | subReg x y => exact getV_of_flagThen (exec_subReg x y s) h (ne_of_beq_eq_false hr) (hf rfl)
  | subnReg x y => exact getV_of_flagThen (exec_subnReg x y s) h (ne_of_beq_eq_false hr) (hf rfl)
  | shr x y => exact getV_of_flagThen (exec_shr x y s) h (ne_of_beq_eq_false hr) (hf rfl)
  | shl x y => exact getV_of_flagThen (exec_shl x y s) h (ne_of_beq_eq_false hr) (hf rfl)
  | drw => exact getV_of_execDrw h (hf rfl)
  | ldVxK => exact getV_of_execLdVxK h (ne_of_beq_eq_false hr)
  | loadRegs x =>
    have above : ¬ r.val ≤ x.val := of_decide_eq_false hr
    exact getV_of_orRaise h (by rw [State.getV_loadedBlock, if_neg above])
  | ldB | storeRegs => exact getV_of_orRaise h rfl
  | skp | sknp => exact getV_of_orRaise h (by rw [State.skipIf_eq]; rfl)
  | seImm | sneImm | seReg | sneReg =>
    obtain rfl := Host.Outcome.next.inj h
    rw [State.skipIf_eq]
    rfl
  | cls | sys | jp | ldI | jpV0 | addI | ldF =>
    obtain rfl := Host.Outcome.next.inj h
    rfl
  | ret | call | ldDtVx | ldStVx | unrecognised8 | unrecognisedE | unrecognisedF =>
    exact getV_of_writtenFrom h (fun _ => rfl) r

/-- A flag is 0x00 or 0x01, unless the result overwrites it (D9). -/
theorem isFlag_of_writesFlag {i : Instr} {s t : State} (h : exec i s = .next t) (hw : writesFlag i = true)
    (hn : names i regVF = false) (hf : faultOf i s = .none) : IsFlag (t.getV regVF) := by
  cases i with
  | addReg x y =>
    obtain rfl := Host.Outcome.next.inj h
    rw [State.getV_setVF_regVF]
    exact isFlag_flagByte _
  | subReg x y =>
    exact isFlag_of_flagThen (exec_subReg x y s) h (isFlag_flagByte _) (ne_of_beq_eq_false hn).symm
  | subnReg x y =>
    exact isFlag_of_flagThen (exec_subnReg x y s) h (isFlag_flagByte _) (ne_of_beq_eq_false hn).symm
  | shr x y =>
    exact isFlag_of_flagThen (exec_shr x y s) h (isFlag_rightBitOut _) (ne_of_beq_eq_false hn).symm
  | shl x y =>
    exact isFlag_of_flagThen (exec_shl x y s) h (isFlag_leftBitOut _) (ne_of_beq_eq_false hn).symm
  | drw x y n =>
    have hrange : n.val = 0 ∨ s.i.toNat + n.val - 1 ≤ 0xFFF := by
      have : ¬ (0 < n.val ∧ s.i.toNat + n.val - 1 > 0xFFF) := by simpa [faultOf] using hf
      omega
    obtain rfl := Host.Outcome.next.inj ((exec_drw_of_inRange x y hrange).symm.trans h)
    exact (draws_drawSprite ..).isFlag (s.getV_setVF_regVF 0x00)
  | _ => exact absurd hw Bool.false_ne_true

/-- Settles O12, by the two ways an instruction answers. -/
theorem everyInstructionAnswersNext : Obligations.EveryInstructionAnswersNext := by
  intro i s
  obtain ⟨t, hx, -⟩ := exec_answers i s
  exact ⟨t, hx⟩

/-- Settles O15: VF is a register like any other where no flag is written. -/
theorem onlyFlagWritersChangeVF : Obligations.OnlyFlagWritersChangeVF := by
  intro i s
  obtain ⟨t, hx⟩ := everyInstructionAnswersNext i s
  refine ⟨t, hx, fun hw hn => ?_, isFlag_of_writesFlag hx⟩
  exact exec_getV_of_not_names hx hn fun hw' => absurd hw' (Bool.eq_false_iff.mp hw)

end Sys2Proof.Claims

/-! SUPPORT. Reset (spec/70_reset_and_hazards.md R200 to R203, R211, R212): which ROMs load, what a reset leaves
in the fields and in memory, and where a delivered reset comes. -/

namespace Sys2Proof.Machine

/-! ## The two outcomes (R200, R203) -/

theorem Rom.loads_bytes_iff (image : List Byte) :
    Rom.loads (.bytes image) = true ↔ 1 ≤ image.length ∧ image.length ≤ 3584 := by
  rw [Nat.one_le_iff_ne_zero]
  simp [Rom.loads]

theorem Rom.loads_iff (rom : Rom) : Rom.loads rom = true ↔
    ∃ image, rom = .bytes image ∧ 1 ≤ image.length ∧ image.length ≤ 3584 := by
  cases rom with
  | bytes image => simp [Rom.loads_bytes_iff]
  | unreadable => simp [Rom.loads]

theorem Rom.loads_eq_false_iff (rom : Rom) : Rom.loads rom = false ↔
    rom = .unreadable ∨ ∃ image, rom = .bytes image ∧ (image.length = 0 ∨ image.length > 3584) := by
  cases rom with
  | bytes image =>
    rw [← Bool.not_eq_true, Rom.loads_bytes_iff]
    simp only [reduceCtorEq, Rom.bytes.injEq, exists_eq_left', false_or]
    omega
  | unreadable => simp [Rom.loads]

section

variable (config : SessionConfig) (font : Font) {rom : Rom} (inbox : List HostEvent)

theorem State.resetWith_of_loads (h : Rom.loads rom = true) :
    State.resetWith config font rom inbox = { State.resetBase config font inbox with
      mem := (State.resetBase config font inbox).mem.writeBytes 0x200 (Rom.image rom) } :=
  if_pos h

theorem State.resetWith_of_not_loads (h : Rom.loads rom = false) :
    State.resetWith config font rom inbox = (State.resetBase config font inbox).raise .romLoadFailed :=
  if_neg (Bool.eq_false_iff.mp h)

/-- In both outcomes all other fields are those of `State.resetBase`. -/
theorem State.resetWith_frame (rom : Rom) (t : State) (h : t = State.resetWith config font rom inbox) :
    t = { State.resetBase config font inbox with
      mem := t.mem, runState := t.runState, faultCause := t.faultCause, faultPc := t.faultPc
      event := t.event } := by
  cases hl : Rom.loads rom with
  | true => rw [h, State.resetWith_of_loads config font inbox hl]
  | false => rw [h, State.resetWith_of_not_loads config font inbox hl]; rfl

end

/-! ## Fields of the reset state (R34) -/

@[simp] theorem State.getV_reset (r : Reg) : State.reset.getV r = 0 :=
  Vector.getElem_replicate _

@[simp] theorem State.getElem_stack_reset (k : Fin 12) : State.reset.stack[k.val] = 0 :=
  Vector.getElem_replicate _

@[simp] theorem State.pixel_reset (r : Fin 32) (c : Fin 64) : State.reset.pixel r c = false :=
  State.pixel_of_disp_blank rfl r c

@[simp] theorem State.key_reset (k : Fin 16) : State.reset.key k = false :=
  Vector.getElem_replicate _

/-! ## Memory after a reset (R34, R51, R52, R200) -/

/-- The bytes a reset copies to 0x200: none of a ROM that does not load. -/
def Rom.copied (rom : Rom) : List Byte := if Rom.loads rom then Rom.image rom else []

theorem Rom.length_copied_le (rom : Rom) : (Rom.copied rom).length ≤ 3584 := by
  unfold Rom.copied
  split
  · next h =>
    obtain ⟨image, rfl, -, hle⟩ := (Rom.loads_iff rom).mp h
    exact hle
  · exact Nat.zero_le _

/-- Memory with the font in place and no program. -/
def Memory.ofFont (font : Font) : Memory := Memory.writeBytes [] 0 font.toList

theorem State.resetWith_mem (config : SessionConfig) (font : Font) (rom : Rom) (inbox : List HostEvent) :
    (State.resetWith config font rom inbox).mem =
      (Memory.ofFont font).writeBytes 0x200 (Rom.copied rom) := by
  cases h : Rom.loads rom with
  | true => rw [State.resetWith_of_loads config font inbox h, Rom.copied, if_pos h]; rfl
  | false =>
    rw [State.resetWith_of_not_loads config font inbox h, Rom.copied, if_neg (Bool.eq_false_iff.mp h)]
    rfl

/-- Outside the default font an unlisted address reads as zero. -/
theorem Memory.background_of_le {a : Nat} (h : 0x050 ≤ a) : Memory.background a = 0 :=
  List.getD_eq_default _ _ (by simpa using h)

theorem Memory.ofFont_wf (font : Font) : (Memory.ofFont font).wf = true :=
  Memory.writeBytes_wf font.toList [] 0 rfl

theorem Memory.read_ofFont (font : Font) (a : Fin 80) : (Memory.ofFont font).read a.val = font[a.val] := by
  have hread := Memory.read_writeBytes_inside font.toList [] 0 a.val font[a.val] rfl (by simp) (by simp)
  rwa [Nat.zero_add] at hread

theorem Memory.read_ofFont_of_le (font : Font) {a : Nat} (h : 0x050 ≤ a) :
    (Memory.ofFont font).read a = 0 := by
  rw [Memory.ofFont, Memory.read_writeBytes_outside font.toList [] 0 a (.inr (by simpa using h))]
  exact Memory.background_of_le h

section

variable (config : SessionConfig) (font : Font) (rom : Rom) (inbox : List HostEvent)

theorem State.read_resetWith_font (a : Fin 80) :
    (State.resetWith config font rom inbox).mem.read a.val = font[a.val] := by
  rw [State.resetWith_mem, Memory.read_writeBytes_outside _ _ _ _ (.inl (by omega)), Memory.read_ofFont]

/-- Neither the font nor the program reaches the address. -/
theorem State.read_resetWith_of_free {a : Nat} (hfont : 0x050 ≤ a)
    (hprogram : a < 0x200 ∨ 0x200 + (Rom.copied rom).length ≤ a) :
    (State.resetWith config font rom inbox).mem.read a = 0 := by
  rw [State.resetWith_mem, Memory.read_writeBytes_outside _ _ _ _ hprogram,
    Memory.read_ofFont_of_le font hfont]

theorem State.read_resetWith_program {k : Nat} {b : Byte} (hb : (Rom.copied rom)[k]? = some b) :
    (State.resetWith config font rom inbox).mem.read (0x200 + k) = b := by
  have hlen := Rom.length_copied_le rom
  rw [State.resetWith_mem]
  exact Memory.read_writeBytes_inside _ _ 0x200 k b (Memory.ofFont_wf font) (by omega) hb

end

/-! ## A reset that is delivered (R212; log 21) -/

/-- After the end, between two ticks and at its place inside a tick a delivered reset comes. -/
theorem step_eq_restart {s : State} {place : Phase} {config : SessionConfig} {font : Font} {rom : Rom}
    {rest : List HostEvent} (hi : s.inbox = .reset place config font rom :: rest)
    (lands : s.ended = true ∨ s.phase = .boundary ∨ s.phase = place) :
    step s = .next (s.restart config font rom rest) := by
  cases he : s.ended with
  | true => simp only [step, State.nextMove_of_ended he, State.endedMove, hi]
  | false =>
    cases hp : s.phase with
    | boundary => simp only [step, State.nextMove_of_boundary he hp, State.boundaryMove, hi]
    | batch left =>
      obtain rfl : s.phase = place := by simpa [he, hp] using lands
      exact step_eq_of_resetInTick he hp
        ((State.resetInTick_eq_some_iff s _).mpr ⟨config, font, rom, rest, hi, rfl⟩)

end Sys2Proof.Machine

namespace Sys2Proof.Claims

open Sys2Proof.Machine

/-- Settles O50: `State.resetWith_frame` for the registers, the reads of reset memory, and the two outcomes. -/
theorem resetBuildsTheState : Obligations.ResetBuildsTheState := by
  intro config font rom inbox t ht
  have frame := State.resetWith_frame config font inbox rom t ht
  have hv : t.v = State.reset.v := (congrArg State.v frame :)
  have hstack : t.stack = State.reset.stack := (congrArg State.stack frame :)
  have hdisp : t.disp = State.reset.disp := (congrArg State.disp frame :)
  have hkeys : t.keys = State.reset.keys := (congrArg State.keys frame :)
  refine ⟨fun r => ?_, congrArg State.i frame, congrArg State.pc frame,
    congrArg (fun u => u.sp.val) frame, fun k => ?_, congrArg State.dt frame, congrArg State.st frame,
    fun r c => ?_, fun k => ?_, congrArg State.config frame, congrArg State.phase frame,
    congrArg State.inbox frame, congrArg State.rndDraws frame, fun a => ?_, fun a hlow hhigh => ?_, ?_⟩
  · rw [State.getV_congr State.reset t hv, State.getV_reset]
  · simp only [hstack, State.getElem_stack_reset]
  · rw [State.pixel_congr State.reset t hdisp, State.pixel_reset]
  · rw [State.key, hkeys]; exact State.key_reset k
  · rw [ht, State.read_resetWith_font]
  · rw [ht, State.read_resetWith_of_free config font rom inbox hlow (.inl hhigh)]
  cases hl : Rom.loads rom with
  | true =>
    obtain ⟨image, rfl, hpos, hle⟩ := (Rom.loads_iff rom).mp hl
    have hcopied : Rom.copied (.bytes image) = image := if_pos hl
    have hreset := ht.trans (State.resetWith_of_loads config font inbox hl)
    refine .inl ⟨image, rfl, hpos, hle, congrArg State.runState hreset, congrArg State.faultCause hreset,
      congrArg State.faultPc hreset, congrArg State.event hreset, fun k b hb => ?_, fun a ha => ?_⟩
    · rw [ht, State.read_resetWith_program config font _ inbox (hcopied.symm ▸ hb)]
    · rw [ht, State.read_resetWith_of_free config font _ inbox (by omega) (.inr (hcopied.symm ▸ ha))]
  | false =>
    have hcopied : Rom.copied rom = [] := if_neg (Bool.eq_false_iff.mp hl)
    have hreset := ht.trans (State.resetWith_of_not_loads config font inbox hl)
    refine .inr ⟨(Rom.loads_eq_false_iff rom).mp hl, congrArg State.runState hreset,
      congrArg State.faultCause hreset, congrArg State.faultPc hreset, congrArg State.event hreset,
      fun a ha => ?_⟩
    rw [ht, State.read_resetWith_of_free config font rom inbox (by omega) (.inr (hcopied.symm ▸ ha))]

/-- Settles O51, by the places at which a reset comes. -/
theorem resetDeliveryStartsNewSession : Obligations.ResetDeliveryStartsNewSession :=
  fun _ _ _ _ _ _ hi lands => step_eq_restart hi lands

/-- Settles O52: the default font and a program of one zero are what unlisted addresses read as, so memory
lists nothing. -/
theorem resetStateIsAReset : Obligations.ResetStateIsAReset := by
  unfold Obligations.ResetStateIsAReset
  decide

/-- Settles O55: every reset, a failed one too, leaves memory canonical, the stack empty and PC at 0x200. -/
theorem resetSatisfiesInvariant : Obligations.ResetSatisfiesInvariant := ⟨inv_reset, inv_resetWith⟩

/-- Settles O53: the jump goes back to the address it was fetched from. -/
theorem selfJumpChangesNothing : Obligations.SelfJumpChangesNothing := by
  intro s left nnn hr hf hp hpc hn htarget hw
  have back : addrOfImm nnn = s.pc := BitVec.eq_of_toNat_eq ((addrOfImm_toNat nnn).trans htarget)
  calc step s
    _ = exec (.jp nnn) (s.fetched left) := by
      rw [step_eq_exec_fetched hr hf hp hn hpc, hw]
      exact congrArg (exec · _) (decodeWord_encodeWord (.jp nnn) rfl)
    _ = .next ((s.fetched left).setPc (addrOfImm nnn)) := rfl
    _ = .next { s with phase := .batch left, event := .none } := by rw [back]; rfl

/-- Settles O46: a tick without events presses no key and asks for no run state. -/
theorem emptyInboxIsATickWithoutEvents : Obligations.EmptyInboxIsATickWithoutEvents := by
  intro s hq hf hp hi
  have alive : s.ended = false := (State.ended_eq_false_iff s).mpr ⟨hq, hf⟩
  have hplace : s.runState.placeAfterInput s.config.ipt =
      .batch (if s.runState = .running then s.config.ipt else 0) := by
    cases h : s.runState with
    | running | stopped => rfl
    | quit => exact absurd h hq
  calc step s
    _ = .next ({ s with inbox := [] }.beginTick TickInput.silent) :=
      step_eq_beginTick alive hp (.inr ⟨hi, rfl, rfl⟩)
    _ = .next { s with inbox := [], event := .none, phase := s.runState.placeAfterInput s.config.ipt } := by
      rw [State.beginTick_frame (s := { s with inbox := [] }) TickInput.silent hp]
      rfl
    _ = _ := by rw [hplace, ← hi]

end Sys2Proof.Claims

/-! SUPPORT. The opcode that the host places (log 5, log 22): the state is ready to fetch, whatever was to come
at its place in the tick, and fetches that opcode. -/

namespace Sys2Proof.Machine

theorem decodeTableWord_16 (w : Nat) : decodeTableWord 16 w = some (decodeWord (tableWord 16 w)) := by
  simp [decodeTableWord]

/-! ## Ready to fetch (log 22) -/

theorem Phase.live_eq (p : Phase) : ∃ left, p.live = .batch (left + 1) := by
  cases p with
  | boundary => exact ⟨0, rfl⟩
  | batch left =>
    cases left with
    | zero => exact ⟨0, rfl⟩
    | succ left => exact ⟨left, rfl⟩

theorem Phase.later_ne (p : Phase) : p.later ≠ p := by
  cases p with
  | boundary => exact nofun
  | batch left => simp [Phase.later]

theorem Phase.later_live_eq (p : Phase) : ∃ left, p.live.later = .batch (left + 1) := by
  obtain ⟨left, h⟩ := p.live_eq
  exact ⟨left + 1, by rw [h]; rfl⟩

theorem State.readyToFetch_frame (s : State) : s.readyToFetch =
    { s with runState := .running, faultCause := .none, phase := s.readyToFetch.phase } := by
  unfold State.readyToFetch
  dsimp only
  split <;> rfl

/-- A step of a batch is left, and no reset comes before it: one that would have come there finds the
place moved on. -/
theorem State.readyToFetch_place (s : State) :
    (∃ left, s.readyToFetch.phase = .batch (left + 1)) ∧ s.readyToFetch.resetInTick = none := by
  unfold State.readyToFetch
  dsimp only
  split
  · next stays => exact ⟨s.phase.live_eq, stays⟩
  · next u comes =>
    obtain ⟨config, font, rom, rest, hi, -⟩ := (State.resetInTick_eq_some_iff _ u).mp comes
    refine ⟨s.phase.later_live_eq, (State.resetInTick_eq_none_iff _).mpr ?_⟩
    intro config' font' rom' rest' hi'
    injection hi.symm.trans hi' with hreset
    injection hreset with hplace
    exact s.phase.live.later_ne hplace.symm

/-! ## The placed opcode (R53) -/

theorem State.read_placeWord_of_ne (s : State) (w : Word) {a : Nat} (ha : a ≠ s.pc.toNat)
    (ha' : a ≠ s.pc.toNat + 1) : (s.placeWord w).mem.read a = s.mem.read a :=
  Memory.read_writeBytes_outside [highByte w, lowByte w] s.mem s.pc.toNat a (by
    simp only [List.length_cons, List.length_nil]
    omega)

theorem State.fetchWord_placeWord (s : State) (w : Word) (hm : s.mem.wf = true)
    (hpc : s.pc.toNat ≤ 0xFFE) : (s.placeWord w).fetchWord = w := by
  have hl : s.pc.toNat + [highByte w, lowByte w].length ≤ 4096 := by
    simp only [List.length_cons, List.length_nil]
    omega
  have high := Memory.read_writeBytes_inside _ s.mem s.pc.toNat 0 (highByte w) hm hl rfl
  have low := Memory.read_writeBytes_inside _ s.mem s.pc.toNat 1 (lowByte w) hm hl rfl
  calc (s.placeWord w).fetchWord
    _ = wordOfBytes (highByte w) (lowByte w) := congrArg₂ wordOfBytes high low
    _ = w := wordOfBytes_highByte_lowByte w

/-- A state ready to fetch, with PC in range, runs the opcode at PC. -/
theorem State.step_readyToFetch (s : State) (hpc : s.pc.toNat ≤ 0xFFE) : ∃ left,
    step s.readyToFetch = exec (decodeWord s.fetchWord) (s.readyToFetch.fetched left) := by
  obtain ⟨⟨left, place⟩, stays⟩ := s.readyToFetch_place
  have frame := s.readyToFetch_frame
  have running : s.readyToFetch.runState = .running := by rw [frame]
  have alive : s.readyToFetch.ended = false := by rw [frame]; rfl
  have inside : s.readyToFetch.canFetch = true := by rw [frame]; exact decide_eq_true hpc
  have word : s.readyToFetch.fetchWord = s.fetchWord := by rw [frame]; rfl
  refine ⟨left, ?_⟩
  rw [step_of_batch s.readyToFetch left alive running place
    ((State.resetInTick_eq_none_iff _).mp stays) inside, word]

end Sys2Proof.Machine

namespace Sys2Proof.Claims

open Sys2Proof.Machine

/-- Settles O54: the placed opcode is the one fetched, and placing writes its two bytes and the run alone. -/
theorem placedWordIsTheNextInstruction : Obligations.PlacedWordIsTheNextInstruction := by
  intro s w hm hpc _
  obtain ⟨left, hstep⟩ := (s.placeWord (tableWord 16 w)).step_readyToFetch hpc
  rw [s.fetchWord_placeWord _ hm hpc] at hstep
  refine ⟨_, _, decodeTableWord_16 w, hstep, ?_⟩
  rw [State.readyToFetch_frame]
  exact ⟨rfl, rfl, rfl, rfl, rfl, rfl, rfl, rfl, rfl, fun _ ha ha' => s.read_placeWord_of_ne _ ha ha'⟩

end Sys2Proof.Claims
